-- ==== Sys2Proof/Word.lean ====
section
/-! DEFINITION. The word types of the core: bytes for A, X, Y, S, P and memory cells (10_state.md R20 to R25),
16-bit words for PC and addresses (R24, 20_memory.md R50). -/
namespace Sys2Proof

/-- One byte: A, X, Y, S, P, and every memory cell (00_scope.md R5). -/
abbrev Byte := BitVec 8

/-- One 16-bit address, and the program counter (00_scope.md R5). -/
abbrev Addr := BitVec 16

end Sys2Proof
end

