-- ==== Sys2Proof/Config.lean ====
section
/-! DEFINITION. What the hardware fixes for good and the names the other files speak in: the mnemonics, the 13
addressing modes, the operand forms, and the two conventions the model chooses for what the host supplies. -/
namespace Sys2Proof

/-- `MEM_SIZE` of the conforming image (00_scope.md R5).  DESIGN CHOICE (log entry 3): the size State.reset takes. -/
def Config.conformingMemSize : Nat := 65536

/-- What a byte of the image that nothing has written reads as.  20_memory.md R68 leaves it to the host.
DESIGN CHOICE, unsafe (log entry 4). -/
def Config.unlistedByte : Byte := 0x00#8

/-- The 56 mnemonics (00_scope.md R2). -/
inductive Mnemonic where
  | lda | ldx | ldy | sta | stx | sty | adc | sbc | and | ora
  | eor | asl | lsr | rol | ror | inc | dec | inx | iny | dex
  | dey | cmp | cpx | cpy | bit | bcc | bcs | beq | bne | bmi
  | bpl | bvc | bvs | jmp | jsr | rts | pha | php | pla | plp
  | brk | rti | clc | cld | cli | clv | sec | sed | sei | tax
  | tay | txa | tya | tsx | txs | nop
deriving DecidableEq, Repr

/-- The 13 addressing modes (30_encoding.md R84). -/
inductive Mode where
  | implied | accumulator | immediate
  | zeroPage | zeroPageX | zeroPageY
  | absolute | absoluteX | absoluteY | indirect
  | indexedIndirect | indirectIndexed | relative
deriving DecidableEq, Repr

/-- The eight operand forms whose operand is a byte of memory, with the operand bytes of the instruction
(30_encoding.md R81, R82): one byte for the zero-page family, the 16-bit operand for the absolute family. -/
inductive MemOperand where
  | zeroPage (b : Byte)
  | zeroPageX (b : Byte)
  | zeroPageY (b : Byte)
  | absolute (w : Addr)
  | absoluteX (w : Addr)
  | absoluteY (w : Addr)
  | indexedIndirect (b : Byte)
  | indirectIndexed (b : Byte)
deriving DecidableEq, Repr

/-- An instruction's operand as it stands in the instruction: the addressing mode with its operand bytes. -/
inductive Operand where
  | implied
  | accumulator
  | immediate (v : Byte)
  | memory (m : MemOperand)
  | indirect (w : Addr)
  | relative (d : Byte)
deriving DecidableEq, Repr

/-- The extra-cycle column of the opcode table (30_encoding.md R83): none, the page-crossing modifier of
40_sequencer.md R108, or the branch extra of 47_branch.md R259. -/
inductive ExtraCycles where
  | none | pageCross | branch
deriving DecidableEq, Repr

end Sys2Proof
end

