-- ==== Sys2Proof/Syntax.lean ====
section
/-! DEFINITION. The instructions: one constructor per row of spec/opcode_table.json (30_encoding.md R83), in the
table's order, with the operand bytes its format carries (R81): none, one byte, or one 16-bit operand. -/
namespace Sys2Proof

/-- The 151 instructions.  The suffix names the addressing mode: Imm immediate, Acc accumulator, Zp, ZpX, ZpY the
zero-page modes, Abs, AbsX, AbsY the absolute modes, Ind indirect, IndX (zero page,X), IndY (zero page),Y; a name
without suffix has implied mode, relative mode (the branches) or absolute mode (JSR). -/
inductive Instr where
  | brk  -- 0x00 BRK implied
  | oraIndX (b : Byte)  -- 0x01 ORA (zero page,X)
  | oraZp (b : Byte)  -- 0x05 ORA zero page
  | aslZp (b : Byte)  -- 0x06 ASL zero page
  | php  -- 0x08 PHP implied
  | oraImm (v : Byte)  -- 0x09 ORA immediate
  | aslAcc  -- 0x0A ASL accumulator
  | oraAbs (w : Addr)  -- 0x0D ORA absolute
  | aslAbs (w : Addr)  -- 0x0E ASL absolute
  | bpl (d : Byte)  -- 0x10 BPL relative
  | oraIndY (b : Byte)  -- 0x11 ORA (zero page),Y
  | oraZpX (b : Byte)  -- 0x15 ORA zero page,X
  | aslZpX (b : Byte)  -- 0x16 ASL zero page,X
  | clc  -- 0x18 CLC implied
  | oraAbsY (w : Addr)  -- 0x19 ORA absolute,Y
  | oraAbsX (w : Addr)  -- 0x1D ORA absolute,X
  | aslAbsX (w : Addr)  -- 0x1E ASL absolute,X
  | jsr (w : Addr)  -- 0x20 JSR absolute
  | andIndX (b : Byte)  -- 0x21 AND (zero page,X)
  | bitZp (b : Byte)  -- 0x24 BIT zero page
  | andZp (b : Byte)  -- 0x25 AND zero page
  | rolZp (b : Byte)  -- 0x26 ROL zero page
  | plp  -- 0x28 PLP implied
  | andImm (v : Byte)  -- 0x29 AND immediate
  | rolAcc  -- 0x2A ROL accumulator
  | bitAbs (w : Addr)  -- 0x2C BIT absolute
  | andAbs (w : Addr)  -- 0x2D AND absolute
  | rolAbs (w : Addr)  -- 0x2E ROL absolute
  | bmi (d : Byte)  -- 0x30 BMI relative
  | andIndY (b : Byte)  -- 0x31 AND (zero page),Y
  | andZpX (b : Byte)  -- 0x35 AND zero page,X
  | rolZpX (b : Byte)  -- 0x36 ROL zero page,X
  | sec  -- 0x38 SEC implied
  | andAbsY (w : Addr)  -- 0x39 AND absolute,Y
  | andAbsX (w : Addr)  -- 0x3D AND absolute,X
  | rolAbsX (w : Addr)  -- 0x3E ROL absolute,X
  | rti  -- 0x40 RTI implied
  | eorIndX (b : Byte)  -- 0x41 EOR (zero page,X)
  | eorZp (b : Byte)  -- 0x45 EOR zero page
  | lsrZp (b : Byte)  -- 0x46 LSR zero page
  | pha  -- 0x48 PHA implied
  | eorImm (v : Byte)  -- 0x49 EOR immediate
  | lsrAcc  -- 0x4A LSR accumulator
  | jmpAbs (w : Addr)  -- 0x4C JMP absolute
  | eorAbs (w : Addr)  -- 0x4D EOR absolute
  | lsrAbs (w : Addr)  -- 0x4E LSR absolute
  | bvc (d : Byte)  -- 0x50 BVC relative
  | eorIndY (b : Byte)  -- 0x51 EOR (zero page),Y
  | eorZpX (b : Byte)  -- 0x55 EOR zero page,X
  | lsrZpX (b : Byte)  -- 0x56 LSR zero page,X
  | cli  -- 0x58 CLI implied
  | eorAbsY (w : Addr)  -- 0x59 EOR absolute,Y
  | eorAbsX (w : Addr)  -- 0x5D EOR absolute,X
  | lsrAbsX (w : Addr)  -- 0x5E LSR absolute,X
  | rts  -- 0x60 RTS implied
  | adcIndX (b : Byte)  -- 0x61 ADC (zero page,X)
  | adcZp (b : Byte)  -- 0x65 ADC zero page
  | rorZp (b : Byte)  -- 0x66 ROR zero page
  | pla  -- 0x68 PLA implied
  | adcImm (v : Byte)  -- 0x69 ADC immediate
  | rorAcc  -- 0x6A ROR accumulator
  | jmpInd (w : Addr)  -- 0x6C JMP indirect
  | adcAbs (w : Addr)  -- 0x6D ADC absolute
  | rorAbs (w : Addr)  -- 0x6E ROR absolute
  | bvs (d : Byte)  -- 0x70 BVS relative
  | adcIndY (b : Byte)  -- 0x71 ADC (zero page),Y
  | adcZpX (b : Byte)  -- 0x75 ADC zero page,X
  | rorZpX (b : Byte)  -- 0x76 ROR zero page,X
  | sei  -- 0x78 SEI implied
  | adcAbsY (w : Addr)  -- 0x79 ADC absolute,Y
  | adcAbsX (w : Addr)  -- 0x7D ADC absolute,X
  | rorAbsX (w : Addr)  -- 0x7E ROR absolute,X
  | staIndX (b : Byte)  -- 0x81 STA (zero page,X)
  | styZp (b : Byte)  -- 0x84 STY zero page
  | staZp (b : Byte)  -- 0x85 STA zero page
  | stxZp (b : Byte)  -- 0x86 STX zero page
  | dey  -- 0x88 DEY implied
  | txa  -- 0x8A TXA implied
  | styAbs (w : Addr)  -- 0x8C STY absolute
  | staAbs (w : Addr)  -- 0x8D STA absolute
  | stxAbs (w : Addr)  -- 0x8E STX absolute
  | bcc (d : Byte)  -- 0x90 BCC relative
  | staIndY (b : Byte)  -- 0x91 STA (zero page),Y
  | styZpX (b : Byte)  -- 0x94 STY zero page,X
  | staZpX (b : Byte)  -- 0x95 STA zero page,X
  | stxZpY (b : Byte)  -- 0x96 STX zero page,Y
  | tya  -- 0x98 TYA implied
  | staAbsY (w : Addr)  -- 0x99 STA absolute,Y
  | txs  -- 0x9A TXS implied
  | staAbsX (w : Addr)  -- 0x9D STA absolute,X
  | ldyImm (v : Byte)  -- 0xA0 LDY immediate
  | ldaIndX (b : Byte)  -- 0xA1 LDA (zero page,X)
  | ldxImm (v : Byte)  -- 0xA2 LDX immediate
  | ldyZp (b : Byte)  -- 0xA4 LDY zero page
  | ldaZp (b : Byte)  -- 0xA5 LDA zero page
  | ldxZp (b : Byte)  -- 0xA6 LDX zero page
  | tay  -- 0xA8 TAY implied
  | ldaImm (v : Byte)  -- 0xA9 LDA immediate
  | tax  -- 0xAA TAX implied
  | ldyAbs (w : Addr)  -- 0xAC LDY absolute
  | ldaAbs (w : Addr)  -- 0xAD LDA absolute
  | ldxAbs (w : Addr)  -- 0xAE LDX absolute
  | bcs (d : Byte)  -- 0xB0 BCS relative
  | ldaIndY (b : Byte)  -- 0xB1 LDA (zero page),Y
  | ldyZpX (b : Byte)  -- 0xB4 LDY zero page,X
  | ldaZpX (b : Byte)  -- 0xB5 LDA zero page,X
  | ldxZpY (b : Byte)  -- 0xB6 LDX zero page,Y
  | clv  -- 0xB8 CLV implied
  | ldaAbsY (w : Addr)  -- 0xB9 LDA absolute,Y
  | tsx  -- 0xBA TSX implied
  | ldyAbsX (w : Addr)  -- 0xBC LDY absolute,X
  | ldaAbsX (w : Addr)  -- 0xBD LDA absolute,X
  | ldxAbsY (w : Addr)  -- 0xBE LDX absolute,Y
  | cpyImm (v : Byte)  -- 0xC0 CPY immediate
  | cmpIndX (b : Byte)  -- 0xC1 CMP (zero page,X)
  | cpyZp (b : Byte)  -- 0xC4 CPY zero page
  | cmpZp (b : Byte)  -- 0xC5 CMP zero page
  | decZp (b : Byte)  -- 0xC6 DEC zero page
  | iny  -- 0xC8 INY implied
  | cmpImm (v : Byte)  -- 0xC9 CMP immediate
  | dex  -- 0xCA DEX implied
  | cpyAbs (w : Addr)  -- 0xCC CPY absolute
  | cmpAbs (w : Addr)  -- 0xCD CMP absolute
  | decAbs (w : Addr)  -- 0xCE DEC absolute
  | bne (d : Byte)  -- 0xD0 BNE relative
  | cmpIndY (b : Byte)  -- 0xD1 CMP (zero page),Y
  | cmpZpX (b : Byte)  -- 0xD5 CMP zero page,X
  | decZpX (b : Byte)  -- 0xD6 DEC zero page,X
  | cld  -- 0xD8 CLD implied
  | cmpAbsY (w : Addr)  -- 0xD9 CMP absolute,Y
  | cmpAbsX (w : Addr)  -- 0xDD CMP absolute,X
  | decAbsX (w : Addr)  -- 0xDE DEC absolute,X
  | cpxImm (v : Byte)  -- 0xE0 CPX immediate
  | sbcIndX (b : Byte)  -- 0xE1 SBC (zero page,X)
  | cpxZp (b : Byte)  -- 0xE4 CPX zero page
  | sbcZp (b : Byte)  -- 0xE5 SBC zero page
  | incZp (b : Byte)  -- 0xE6 INC zero page
  | inx  -- 0xE8 INX implied
  | sbcImm (v : Byte)  -- 0xE9 SBC immediate
  | nop  -- 0xEA NOP implied
  | cpxAbs (w : Addr)  -- 0xEC CPX absolute
  | sbcAbs (w : Addr)  -- 0xED SBC absolute
  | incAbs (w : Addr)  -- 0xEE INC absolute
  | beq (d : Byte)  -- 0xF0 BEQ relative
  | sbcIndY (b : Byte)  -- 0xF1 SBC (zero page),Y
  | sbcZpX (b : Byte)  -- 0xF5 SBC zero page,X
  | incZpX (b : Byte)  -- 0xF6 INC zero page,X
  | sed  -- 0xF8 SED implied
  | sbcAbsY (w : Addr)  -- 0xF9 SBC absolute,Y
  | sbcAbsX (w : Addr)  -- 0xFD SBC absolute,X
  | incAbsX (w : Addr)  -- 0xFE INC absolute,X
deriving DecidableEq, Repr

end Sys2Proof
end

