-- ==== Sys2Proof/Decode.lean ====
section
/-! DEFINITION. Decoding and encoding (30_encoding.md): the opcode table OPC, the lookup that decodes any bytes and
rejects by name, the instruction's own opcode and operand bytes, and the encoder. -/
namespace Sys2Proof

/-- `{hi, lo}` (00_scope.md R7): the 16-bit operand from its two bytes. -/
def word16 (hi lo : Byte) : Addr := hi ++ lo

/-- The low byte of a 16-bit value. -/
def loByte (w : Addr) : Byte := w.setWidth 8

/-- The high byte of a 16-bit value. -/
def hiByte (w : Addr) : Byte := (w >>> 8).setWidth 8

/-- The number of operand bytes of a mode (30_encoding.md R84). -/
def Mode.operandBytes : Mode → Nat
  | .implied | .accumulator => 0
  | .immediate | .zeroPage | .zeroPageX | .zeroPageY => 1
  | .indexedIndirect | .indirectIndexed | .relative => 1
  | .absolute | .absoluteX | .absoluteY | .indirect => 2

/-- The mode of a memory operand. -/
def MemOperand.mode : MemOperand → Mode
  | .zeroPage _ => .zeroPage
  | .zeroPageX _ => .zeroPageX
  | .zeroPageY _ => .zeroPageY
  | .absolute _ => .absolute
  | .absoluteX _ => .absoluteX
  | .absoluteY _ => .absoluteY
  | .indexedIndirect _ => .indexedIndirect
  | .indirectIndexed _ => .indirectIndexed

/-- The mode of an operand. -/
def Operand.mode : Operand → Mode
  | .implied => .implied
  | .accumulator => .accumulator
  | .immediate _ => .immediate
  | .memory m => m.mode
  | .indirect _ => .indirect
  | .relative _ => .relative

/-- The operand bytes of a 16-bit operand, low byte first (30_encoding.md R81, format F3). -/
def wordBytes (w : Addr) : List Byte := [loByte w, hiByte w]

/-- The operand bytes of a memory operand. -/
def MemOperand.bytes : MemOperand → List Byte
  | .zeroPage b | .zeroPageX b | .zeroPageY b => [b]
  | .indexedIndirect b | .indirectIndexed b => [b]
  | .absolute w | .absoluteX w | .absoluteY w => wordBytes w

/-- The operand bytes of an operand, in memory order (30_encoding.md R81). -/
def Operand.bytes : Operand → List Byte
  | .implied | .accumulator => []
  | .immediate v => [v]
  | .memory m => m.bytes
  | .indirect w => wordBytes w
  | .relative d => [d]

/-- One entry of OPC (10_state.md R37): the opcode byte, the mnemonic, the addressing mode, the base cycle cost, the
extra-cycle rule, and the instruction the entry makes of its operand bytes (`lo` the first, `hi` the second). -/
structure OpcodeRow where
  opcode   : Byte
  mnemonic : Mnemonic
  mode     : Mode
  cycles   : Nat
  extra    : ExtraCycles
  make     : Byte → Byte → Instr

/-- The rows 0x00 to 0x0F of the opcode table (30_encoding.md R83; UNVERIFIED row by row, log entries 1 and 2). -/
def opcodeRows0 : List OpcodeRow := [
  ⟨0x00#8, .brk, .implied, 7, .none, fun _ _ => .brk⟩,
  ⟨0x01#8, .ora, .indexedIndirect, 6, .none, fun lo _ => .oraIndX lo⟩,
  ⟨0x05#8, .ora, .zeroPage, 3, .none, fun lo _ => .oraZp lo⟩,
  ⟨0x06#8, .asl, .zeroPage, 5, .none, fun lo _ => .aslZp lo⟩,
  ⟨0x08#8, .php, .implied, 3, .none, fun _ _ => .php⟩,
  ⟨0x09#8, .ora, .immediate, 2, .none, fun lo _ => .oraImm lo⟩,
  ⟨0x0A#8, .asl, .accumulator, 2, .none, fun _ _ => .aslAcc⟩,
  ⟨0x0D#8, .ora, .absolute, 4, .none, fun lo hi => .oraAbs (word16 hi lo)⟩,
  ⟨0x0E#8, .asl, .absolute, 6, .none, fun lo hi => .aslAbs (word16 hi lo)⟩]

/-- The rows 0x10 to 0x1F of the opcode table (30_encoding.md R83; UNVERIFIED row by row, log entries 1 and 2). -/
def opcodeRows1 : List OpcodeRow := [
  ⟨0x10#8, .bpl, .relative, 2, .branch, fun lo _ => .bpl lo⟩,
  ⟨0x11#8, .ora, .indirectIndexed, 5, .pageCross, fun lo _ => .oraIndY lo⟩,
  ⟨0x15#8, .ora, .zeroPageX, 4, .none, fun lo _ => .oraZpX lo⟩,
  ⟨0x16#8, .asl, .zeroPageX, 6, .none, fun lo _ => .aslZpX lo⟩,
  ⟨0x18#8, .clc, .implied, 2, .none, fun _ _ => .clc⟩,
  ⟨0x19#8, .ora, .absoluteY, 4, .pageCross, fun lo hi => .oraAbsY (word16 hi lo)⟩,
  ⟨0x1D#8, .ora, .absoluteX, 4, .pageCross, fun lo hi => .oraAbsX (word16 hi lo)⟩,
  ⟨0x1E#8, .asl, .absoluteX, 7, .none, fun lo hi => .aslAbsX (word16 hi lo)⟩]

/-- The rows 0x20 to 0x2F of the opcode table (30_encoding.md R83; UNVERIFIED row by row, log entries 1 and 2). -/
def opcodeRows2 : List OpcodeRow := [
  ⟨0x20#8, .jsr, .absolute, 6, .none, fun lo hi => .jsr (word16 hi lo)⟩,
  ⟨0x21#8, .and, .indexedIndirect, 6, .none, fun lo _ => .andIndX lo⟩,
  ⟨0x24#8, .bit, .zeroPage, 3, .none, fun lo _ => .bitZp lo⟩,
  ⟨0x25#8, .and, .zeroPage, 3, .none, fun lo _ => .andZp lo⟩,
  ⟨0x26#8, .rol, .zeroPage, 5, .none, fun lo _ => .rolZp lo⟩,
  ⟨0x28#8, .plp, .implied, 4, .none, fun _ _ => .plp⟩,
  ⟨0x29#8, .and, .immediate, 2, .none, fun lo _ => .andImm lo⟩,
  ⟨0x2A#8, .rol, .accumulator, 2, .none, fun _ _ => .rolAcc⟩,
  ⟨0x2C#8, .bit, .absolute, 4, .none, fun lo hi => .bitAbs (word16 hi lo)⟩,
  ⟨0x2D#8, .and, .absolute, 4, .none, fun lo hi => .andAbs (word16 hi lo)⟩,
  ⟨0x2E#8, .rol, .absolute, 6, .none, fun lo hi => .rolAbs (word16 hi lo)⟩]

/-- The rows 0x30 to 0x3F of the opcode table (30_encoding.md R83; UNVERIFIED row by row, log entries 1 and 2). -/
def opcodeRows3 : List OpcodeRow := [
  ⟨0x30#8, .bmi, .relative, 2, .branch, fun lo _ => .bmi lo⟩,
  ⟨0x31#8, .and, .indirectIndexed, 5, .pageCross, fun lo _ => .andIndY lo⟩,
  ⟨0x35#8, .and, .zeroPageX, 4, .none, fun lo _ => .andZpX lo⟩,
  ⟨0x36#8, .rol, .zeroPageX, 6, .none, fun lo _ => .rolZpX lo⟩,
  ⟨0x38#8, .sec, .implied, 2, .none, fun _ _ => .sec⟩,
  ⟨0x39#8, .and, .absoluteY, 4, .pageCross, fun lo hi => .andAbsY (word16 hi lo)⟩,
  ⟨0x3D#8, .and, .absoluteX, 4, .pageCross, fun lo hi => .andAbsX (word16 hi lo)⟩,
  ⟨0x3E#8, .rol, .absoluteX, 7, .none, fun lo hi => .rolAbsX (word16 hi lo)⟩]

/-- The rows 0x40 to 0x4F of the opcode table (30_encoding.md R83; UNVERIFIED row by row, log entries 1 and 2). -/
def opcodeRows4 : List OpcodeRow := [
  ⟨0x40#8, .rti, .implied, 6, .none, fun _ _ => .rti⟩,
  ⟨0x41#8, .eor, .indexedIndirect, 6, .none, fun lo _ => .eorIndX lo⟩,
  ⟨0x45#8, .eor, .zeroPage, 3, .none, fun lo _ => .eorZp lo⟩,
  ⟨0x46#8, .lsr, .zeroPage, 5, .none, fun lo _ => .lsrZp lo⟩,
  ⟨0x48#8, .pha, .implied, 3, .none, fun _ _ => .pha⟩,
  ⟨0x49#8, .eor, .immediate, 2, .none, fun lo _ => .eorImm lo⟩,
  ⟨0x4A#8, .lsr, .accumulator, 2, .none, fun _ _ => .lsrAcc⟩,
  ⟨0x4C#8, .jmp, .absolute, 3, .none, fun lo hi => .jmpAbs (word16 hi lo)⟩,
  ⟨0x4D#8, .eor, .absolute, 4, .none, fun lo hi => .eorAbs (word16 hi lo)⟩,
  ⟨0x4E#8, .lsr, .absolute, 6, .none, fun lo hi => .lsrAbs (word16 hi lo)⟩]

/-- The rows 0x50 to 0x5F of the opcode table (30_encoding.md R83; UNVERIFIED row by row, log entries 1 and 2). -/
def opcodeRows5 : List OpcodeRow := [
  ⟨0x50#8, .bvc, .relative, 2, .branch, fun lo _ => .bvc lo⟩,
  ⟨0x51#8, .eor, .indirectIndexed, 5, .pageCross, fun lo _ => .eorIndY lo⟩,
  ⟨0x55#8, .eor, .zeroPageX, 4, .none, fun lo _ => .eorZpX lo⟩,
  ⟨0x56#8, .lsr, .zeroPageX, 6, .none, fun lo _ => .lsrZpX lo⟩,
  ⟨0x58#8, .cli, .implied, 2, .none, fun _ _ => .cli⟩,
  ⟨0x59#8, .eor, .absoluteY, 4, .pageCross, fun lo hi => .eorAbsY (word16 hi lo)⟩,
  ⟨0x5D#8, .eor, .absoluteX, 4, .pageCross, fun lo hi => .eorAbsX (word16 hi lo)⟩,
  ⟨0x5E#8, .lsr, .absoluteX, 7, .none, fun lo hi => .lsrAbsX (word16 hi lo)⟩]

/-- The rows 0x60 to 0x6F of the opcode table (30_encoding.md R83; UNVERIFIED row by row, log entries 1 and 2). -/
def opcodeRows6 : List OpcodeRow := [
  ⟨0x60#8, .rts, .implied, 6, .none, fun _ _ => .rts⟩,
  ⟨0x61#8, .adc, .indexedIndirect, 6, .none, fun lo _ => .adcIndX lo⟩,
  ⟨0x65#8, .adc, .zeroPage, 3, .none, fun lo _ => .adcZp lo⟩,
  ⟨0x66#8, .ror, .zeroPage, 5, .none, fun lo _ => .rorZp lo⟩,
  ⟨0x68#8, .pla, .implied, 4, .none, fun _ _ => .pla⟩,
  ⟨0x69#8, .adc, .immediate, 2, .none, fun lo _ => .adcImm lo⟩,
  ⟨0x6A#8, .ror, .accumulator, 2, .none, fun _ _ => .rorAcc⟩,
  ⟨0x6C#8, .jmp, .indirect, 5, .none, fun lo hi => .jmpInd (word16 hi lo)⟩,
  ⟨0x6D#8, .adc, .absolute, 4, .none, fun lo hi => .adcAbs (word16 hi lo)⟩,
  ⟨0x6E#8, .ror, .absolute, 6, .none, fun lo hi => .rorAbs (word16 hi lo)⟩]

/-- The rows 0x70 to 0x7F of the opcode table (30_encoding.md R83; UNVERIFIED row by row, log entries 1 and 2). -/
def opcodeRows7 : List OpcodeRow := [
  ⟨0x70#8, .bvs, .relative, 2, .branch, fun lo _ => .bvs lo⟩,
  ⟨0x71#8, .adc, .indirectIndexed, 5, .pageCross, fun lo _ => .adcIndY lo⟩,
  ⟨0x75#8, .adc, .zeroPageX, 4, .none, fun lo _ => .adcZpX lo⟩,
  ⟨0x76#8, .ror, .zeroPageX, 6, .none, fun lo _ => .rorZpX lo⟩,
  ⟨0x78#8, .sei, .implied, 2, .none, fun _ _ => .sei⟩,
  ⟨0x79#8, .adc, .absoluteY, 4, .pageCross, fun lo hi => .adcAbsY (word16 hi lo)⟩,
  ⟨0x7D#8, .adc, .absoluteX, 4, .pageCross, fun lo hi => .adcAbsX (word16 hi lo)⟩,
  ⟨0x7E#8, .ror, .absoluteX, 7, .none, fun lo hi => .rorAbsX (word16 hi lo)⟩]

/-- The rows 0x80 to 0x8F of the opcode table (30_encoding.md R83; UNVERIFIED row by row, log entries 1 and 2). -/
def opcodeRows8 : List OpcodeRow := [
  ⟨0x81#8, .sta, .indexedIndirect, 6, .none, fun lo _ => .staIndX lo⟩,
  ⟨0x84#8, .sty, .zeroPage, 3, .none, fun lo _ => .styZp lo⟩,
  ⟨0x85#8, .sta, .zeroPage, 3, .none, fun lo _ => .staZp lo⟩,
  ⟨0x86#8, .stx, .zeroPage, 3, .none, fun lo _ => .stxZp lo⟩,
  ⟨0x88#8, .dey, .implied, 2, .none, fun _ _ => .dey⟩,
  ⟨0x8A#8, .txa, .implied, 2, .none, fun _ _ => .txa⟩,
  ⟨0x8C#8, .sty, .absolute, 4, .none, fun lo hi => .styAbs (word16 hi lo)⟩,
  ⟨0x8D#8, .sta, .absolute, 4, .none, fun lo hi => .staAbs (word16 hi lo)⟩,
  ⟨0x8E#8, .stx, .absolute, 4, .none, fun lo hi => .stxAbs (word16 hi lo)⟩]

/-- The rows 0x90 to 0x9F of the opcode table (30_encoding.md R83; UNVERIFIED row by row, log entries 1 and 2). -/
def opcodeRows9 : List OpcodeRow := [
  ⟨0x90#8, .bcc, .relative, 2, .branch, fun lo _ => .bcc lo⟩,
  ⟨0x91#8, .sta, .indirectIndexed, 6, .none, fun lo _ => .staIndY lo⟩,
  ⟨0x94#8, .sty, .zeroPageX, 4, .none, fun lo _ => .styZpX lo⟩,
  ⟨0x95#8, .sta, .zeroPageX, 4, .none, fun lo _ => .staZpX lo⟩,
  ⟨0x96#8, .stx, .zeroPageY, 4, .none, fun lo _ => .stxZpY lo⟩,
  ⟨0x98#8, .tya, .implied, 2, .none, fun _ _ => .tya⟩,
  ⟨0x99#8, .sta, .absoluteY, 5, .none, fun lo hi => .staAbsY (word16 hi lo)⟩,
  ⟨0x9A#8, .txs, .implied, 2, .none, fun _ _ => .txs⟩,
  ⟨0x9D#8, .sta, .absoluteX, 5, .none, fun lo hi => .staAbsX (word16 hi lo)⟩]

/-- The rows 0xA0 to 0xAF of the opcode table (30_encoding.md R83; UNVERIFIED row by row, log entries 1 and 2). -/
def opcodeRowsA : List OpcodeRow := [
  ⟨0xA0#8, .ldy, .immediate, 2, .none, fun lo _ => .ldyImm lo⟩,
  ⟨0xA1#8, .lda, .indexedIndirect, 6, .none, fun lo _ => .ldaIndX lo⟩,
  ⟨0xA2#8, .ldx, .immediate, 2, .none, fun lo _ => .ldxImm lo⟩,
  ⟨0xA4#8, .ldy, .zeroPage, 3, .none, fun lo _ => .ldyZp lo⟩,
  ⟨0xA5#8, .lda, .zeroPage, 3, .none, fun lo _ => .ldaZp lo⟩,
  ⟨0xA6#8, .ldx, .zeroPage, 3, .none, fun lo _ => .ldxZp lo⟩,
  ⟨0xA8#8, .tay, .implied, 2, .none, fun _ _ => .tay⟩,
  ⟨0xA9#8, .lda, .immediate, 2, .none, fun lo _ => .ldaImm lo⟩,
  ⟨0xAA#8, .tax, .implied, 2, .none, fun _ _ => .tax⟩,
  ⟨0xAC#8, .ldy, .absolute, 4, .none, fun lo hi => .ldyAbs (word16 hi lo)⟩,
  ⟨0xAD#8, .lda, .absolute, 4, .none, fun lo hi => .ldaAbs (word16 hi lo)⟩,
  ⟨0xAE#8, .ldx, .absolute, 4, .none, fun lo hi => .ldxAbs (word16 hi lo)⟩]

/-- The rows 0xB0 to 0xBF of the opcode table (30_encoding.md R83; UNVERIFIED row by row, log entries 1 and 2). -/
def opcodeRowsB : List OpcodeRow := [
  ⟨0xB0#8, .bcs, .relative, 2, .branch, fun lo _ => .bcs lo⟩,
  ⟨0xB1#8, .lda, .indirectIndexed, 5, .pageCross, fun lo _ => .ldaIndY lo⟩,
  ⟨0xB4#8, .ldy, .zeroPageX, 4, .none, fun lo _ => .ldyZpX lo⟩,
  ⟨0xB5#8, .lda, .zeroPageX, 4, .none, fun lo _ => .ldaZpX lo⟩,
  ⟨0xB6#8, .ldx, .zeroPageY, 4, .none, fun lo _ => .ldxZpY lo⟩,
  ⟨0xB8#8, .clv, .implied, 2, .none, fun _ _ => .clv⟩,
  ⟨0xB9#8, .lda, .absoluteY, 4, .pageCross, fun lo hi => .ldaAbsY (word16 hi lo)⟩,
  ⟨0xBA#8, .tsx, .implied, 2, .none, fun _ _ => .tsx⟩,
  ⟨0xBC#8, .ldy, .absoluteX, 4, .pageCross, fun lo hi => .ldyAbsX (word16 hi lo)⟩,
  ⟨0xBD#8, .lda, .absoluteX, 4, .pageCross, fun lo hi => .ldaAbsX (word16 hi lo)⟩,
  ⟨0xBE#8, .ldx, .absoluteY, 4, .pageCross, fun lo hi => .ldxAbsY (word16 hi lo)⟩]

/-- The rows 0xC0 to 0xCF of the opcode table (30_encoding.md R83; UNVERIFIED row by row, log entries 1 and 2). -/
def opcodeRowsC : List OpcodeRow := [
  ⟨0xC0#8, .cpy, .immediate, 2, .none, fun lo _ => .cpyImm lo⟩,
  ⟨0xC1#8, .cmp, .indexedIndirect, 6, .none, fun lo _ => .cmpIndX lo⟩,
  ⟨0xC4#8, .cpy, .zeroPage, 3, .none, fun lo _ => .cpyZp lo⟩,
  ⟨0xC5#8, .cmp, .zeroPage, 3, .none, fun lo _ => .cmpZp lo⟩,
  ⟨0xC6#8, .dec, .zeroPage, 5, .none, fun lo _ => .decZp lo⟩,
  ⟨0xC8#8, .iny, .implied, 2, .none, fun _ _ => .iny⟩,
  ⟨0xC9#8, .cmp, .immediate, 2, .none, fun lo _ => .cmpImm lo⟩,
  ⟨0xCA#8, .dex, .implied, 2, .none, fun _ _ => .dex⟩,
  ⟨0xCC#8, .cpy, .absolute, 4, .none, fun lo hi => .cpyAbs (word16 hi lo)⟩,
  ⟨0xCD#8, .cmp, .absolute, 4, .none, fun lo hi => .cmpAbs (word16 hi lo)⟩,
  ⟨0xCE#8, .dec, .absolute, 6, .none, fun lo hi => .decAbs (word16 hi lo)⟩]

/-- The rows 0xD0 to 0xDF of the opcode table (30_encoding.md R83; UNVERIFIED row by row, log entries 1 and 2). -/
def opcodeRowsD : List OpcodeRow := [
  ⟨0xD0#8, .bne, .relative, 2, .branch, fun lo _ => .bne lo⟩,
  ⟨0xD1#8, .cmp, .indirectIndexed, 5, .pageCross, fun lo _ => .cmpIndY lo⟩,
  ⟨0xD5#8, .cmp, .zeroPageX, 4, .none, fun lo _ => .cmpZpX lo⟩,
  ⟨0xD6#8, .dec, .zeroPageX, 6, .none, fun lo _ => .decZpX lo⟩,
  ⟨0xD8#8, .cld, .implied, 2, .none, fun _ _ => .cld⟩,
  ⟨0xD9#8, .cmp, .absoluteY, 4, .pageCross, fun lo hi => .cmpAbsY (word16 hi lo)⟩,
  ⟨0xDD#8, .cmp, .absoluteX, 4, .pageCross, fun lo hi => .cmpAbsX (word16 hi lo)⟩,
  ⟨0xDE#8, .dec, .absoluteX, 7, .none, fun lo hi => .decAbsX (word16 hi lo)⟩]

/-- The rows 0xE0 to 0xEF of the opcode table (30_encoding.md R83; UNVERIFIED row by row, log entries 1 and 2). -/
def opcodeRowsE : List OpcodeRow := [
  ⟨0xE0#8, .cpx, .immediate, 2, .none, fun lo _ => .cpxImm lo⟩,
  ⟨0xE1#8, .sbc, .indexedIndirect, 6, .none, fun lo _ => .sbcIndX lo⟩,
  ⟨0xE4#8, .cpx, .zeroPage, 3, .none, fun lo _ => .cpxZp lo⟩,
  ⟨0xE5#8, .sbc, .zeroPage, 3, .none, fun lo _ => .sbcZp lo⟩,
  ⟨0xE6#8, .inc, .zeroPage, 5, .none, fun lo _ => .incZp lo⟩,
  ⟨0xE8#8, .inx, .implied, 2, .none, fun _ _ => .inx⟩,
  ⟨0xE9#8, .sbc, .immediate, 2, .none, fun lo _ => .sbcImm lo⟩,
  ⟨0xEA#8, .nop, .implied, 2, .none, fun _ _ => .nop⟩,
  ⟨0xEC#8, .cpx, .absolute, 4, .none, fun lo hi => .cpxAbs (word16 hi lo)⟩,
  ⟨0xED#8, .sbc, .absolute, 4, .none, fun lo hi => .sbcAbs (word16 hi lo)⟩,
  ⟨0xEE#8, .inc, .absolute, 6, .none, fun lo hi => .incAbs (word16 hi lo)⟩]

/-- The rows 0xF0 to 0xFF of the opcode table (30_encoding.md R83; UNVERIFIED row by row, log entries 1 and 2). -/
def opcodeRowsF : List OpcodeRow := [
  ⟨0xF0#8, .beq, .relative, 2, .branch, fun lo _ => .beq lo⟩,
  ⟨0xF1#8, .sbc, .indirectIndexed, 5, .pageCross, fun lo _ => .sbcIndY lo⟩,
  ⟨0xF5#8, .sbc, .zeroPageX, 4, .none, fun lo _ => .sbcZpX lo⟩,
  ⟨0xF6#8, .inc, .zeroPageX, 6, .none, fun lo _ => .incZpX lo⟩,
  ⟨0xF8#8, .sed, .implied, 2, .none, fun _ _ => .sed⟩,
  ⟨0xF9#8, .sbc, .absoluteY, 4, .pageCross, fun lo hi => .sbcAbsY (word16 hi lo)⟩,
  ⟨0xFD#8, .sbc, .absoluteX, 4, .pageCross, fun lo hi => .sbcAbsX (word16 hi lo)⟩,
  ⟨0xFE#8, .inc, .absoluteX, 7, .none, fun lo hi => .incAbsX (word16 hi lo)⟩]

/-- OPC, the opcode table (10_state.md R37, 30_encoding.md R83): 151 rows. -/
def opcodeTable : List OpcodeRow :=
  opcodeRows0 ++ opcodeRows1 ++ opcodeRows2 ++ opcodeRows3 ++ opcodeRows4 ++ opcodeRows5 ++ opcodeRows6 ++ opcodeRows7 ++
  opcodeRows8 ++ opcodeRows9 ++ opcodeRowsA ++ opcodeRowsB ++ opcodeRowsC ++ opcodeRowsD ++ opcodeRowsE ++ opcodeRowsF

/-- Decode's lookup (40_sequencer.md R104): the entry of an opcode byte, none for the undefined bytes (R85). -/
def findRow (op : Byte) : Option OpcodeRow := opcodeTable.find? (fun r => r.opcode == op)

/-- Why a decoding is refused. -/
inductive DecodeError where
  /-- The opcode byte has no entry (30_encoding.md R85). -/
  | illegalOpcode (op : Byte)
  /-- The list of bytes ends before the instruction does. -/
  | truncated
deriving DecidableEq, Repr

/-- The decoder: the instruction the bytes begin with and the bytes after it (30_encoding.md R80 to R84). -/
def decode : List Byte → Except DecodeError (Instr × List Byte)
  | [] => .error .truncated
  | op :: rest =>
    match findRow op with
    | none => .error (.illegalOpcode op)
    | some r =>
      match r.mode.operandBytes, rest with
      | 0, rest => .ok (r.make 0 0, rest)
      | 1, lo :: rest => .ok (r.make lo 0, rest)
      | 2, lo :: hi :: rest => .ok (r.make lo hi, rest)
      | _, _ => .error .truncated

/-- The opcode byte of an instruction (30_encoding.md R83, and the Encoding lines of 42 to 49). -/
def Instr.opcode : Instr → Byte
  | .brk => 0x00#8
  | .oraIndX _ => 0x01#8
  | .oraZp _ => 0x05#8
  | .aslZp _ => 0x06#8
  | .php => 0x08#8
  | .oraImm _ => 0x09#8
  | .aslAcc => 0x0A#8
  | .oraAbs _ => 0x0D#8
  | .aslAbs _ => 0x0E#8
  | .bpl _ => 0x10#8
  | .oraIndY _ => 0x11#8
  | .oraZpX _ => 0x15#8
  | .aslZpX _ => 0x16#8
  | .clc => 0x18#8
  | .oraAbsY _ => 0x19#8
  | .oraAbsX _ => 0x1D#8
  | .aslAbsX _ => 0x1E#8
  | .jsr _ => 0x20#8
  | .andIndX _ => 0x21#8
  | .bitZp _ => 0x24#8
  | .andZp _ => 0x25#8
  | .rolZp _ => 0x26#8
  | .plp => 0x28#8
  | .andImm _ => 0x29#8
  | .rolAcc => 0x2A#8
  | .bitAbs _ => 0x2C#8
  | .andAbs _ => 0x2D#8
  | .rolAbs _ => 0x2E#8
  | .bmi _ => 0x30#8
  | .andIndY _ => 0x31#8
  | .andZpX _ => 0x35#8
  | .rolZpX _ => 0x36#8
  | .sec => 0x38#8
  | .andAbsY _ => 0x39#8
  | .andAbsX _ => 0x3D#8
  | .rolAbsX _ => 0x3E#8
  | .rti => 0x40#8
  | .eorIndX _ => 0x41#8
  | .eorZp _ => 0x45#8
  | .lsrZp _ => 0x46#8
  | .pha => 0x48#8
  | .eorImm _ => 0x49#8
  | .lsrAcc => 0x4A#8
  | .jmpAbs _ => 0x4C#8
  | .eorAbs _ => 0x4D#8
  | .lsrAbs _ => 0x4E#8
  | .bvc _ => 0x50#8
  | .eorIndY _ => 0x51#8
  | .eorZpX _ => 0x55#8
  | .lsrZpX _ => 0x56#8
  | .cli => 0x58#8
  | .eorAbsY _ => 0x59#8
  | .eorAbsX _ => 0x5D#8
  | .lsrAbsX _ => 0x5E#8
  | .rts => 0x60#8
  | .adcIndX _ => 0x61#8
  | .adcZp _ => 0x65#8
  | .rorZp _ => 0x66#8
  | .pla => 0x68#8
  | .adcImm _ => 0x69#8
  | .rorAcc => 0x6A#8
  | .jmpInd _ => 0x6C#8
  | .adcAbs _ => 0x6D#8
  | .rorAbs _ => 0x6E#8
  | .bvs _ => 0x70#8
  | .adcIndY _ => 0x71#8
  | .adcZpX _ => 0x75#8
  | .rorZpX _ => 0x76#8
  | .sei => 0x78#8
  | .adcAbsY _ => 0x79#8
  | .adcAbsX _ => 0x7D#8
  | .rorAbsX _ => 0x7E#8
  | .staIndX _ => 0x81#8
  | .styZp _ => 0x84#8
  | .staZp _ => 0x85#8
  | .stxZp _ => 0x86#8
  | .dey => 0x88#8
  | .txa => 0x8A#8
  | .styAbs _ => 0x8C#8
  | .staAbs _ => 0x8D#8
  | .stxAbs _ => 0x8E#8
  | .bcc _ => 0x90#8
  | .staIndY _ => 0x91#8
  | .styZpX _ => 0x94#8
  | .staZpX _ => 0x95#8
  | .stxZpY _ => 0x96#8
  | .tya => 0x98#8
  | .staAbsY _ => 0x99#8
  | .txs => 0x9A#8
  | .staAbsX _ => 0x9D#8
  | .ldyImm _ => 0xA0#8
  | .ldaIndX _ => 0xA1#8
  | .ldxImm _ => 0xA2#8
  | .ldyZp _ => 0xA4#8
  | .ldaZp _ => 0xA5#8
  | .ldxZp _ => 0xA6#8
  | .tay => 0xA8#8
  | .ldaImm _ => 0xA9#8
  | .tax => 0xAA#8
  | .ldyAbs _ => 0xAC#8
  | .ldaAbs _ => 0xAD#8
  | .ldxAbs _ => 0xAE#8
  | .bcs _ => 0xB0#8
  | .ldaIndY _ => 0xB1#8
  | .ldyZpX _ => 0xB4#8
  | .ldaZpX _ => 0xB5#8
  | .ldxZpY _ => 0xB6#8
  | .clv => 0xB8#8
  | .ldaAbsY _ => 0xB9#8
  | .tsx => 0xBA#8
  | .ldyAbsX _ => 0xBC#8
  | .ldaAbsX _ => 0xBD#8
  | .ldxAbsY _ => 0xBE#8
  | .cpyImm _ => 0xC0#8
  | .cmpIndX _ => 0xC1#8
  | .cpyZp _ => 0xC4#8
  | .cmpZp _ => 0xC5#8
  | .decZp _ => 0xC6#8
  | .iny => 0xC8#8
  | .cmpImm _ => 0xC9#8
  | .dex => 0xCA#8
  | .cpyAbs _ => 0xCC#8
  | .cmpAbs _ => 0xCD#8
  | .decAbs _ => 0xCE#8
  | .bne _ => 0xD0#8
  | .cmpIndY _ => 0xD1#8
  | .cmpZpX _ => 0xD5#8
  | .decZpX _ => 0xD6#8
  | .cld => 0xD8#8
  | .cmpAbsY _ => 0xD9#8
  | .cmpAbsX _ => 0xDD#8
  | .decAbsX _ => 0xDE#8
  | .cpxImm _ => 0xE0#8
  | .sbcIndX _ => 0xE1#8
  | .cpxZp _ => 0xE4#8
  | .sbcZp _ => 0xE5#8
  | .incZp _ => 0xE6#8
  | .inx => 0xE8#8
  | .sbcImm _ => 0xE9#8
  | .nop => 0xEA#8
  | .cpxAbs _ => 0xEC#8
  | .sbcAbs _ => 0xED#8
  | .incAbs _ => 0xEE#8
  | .beq _ => 0xF0#8
  | .sbcIndY _ => 0xF1#8
  | .sbcZpX _ => 0xF5#8
  | .incZpX _ => 0xF6#8
  | .sed => 0xF8#8
  | .sbcAbsY _ => 0xF9#8
  | .sbcAbsX _ => 0xFD#8
  | .incAbsX _ => 0xFE#8

/-- The mnemonic of an instruction. -/
def Instr.mnemonic : Instr → Mnemonic
  | .brk => .brk
  | .oraIndX _ => .ora
  | .oraZp _ => .ora
  | .aslZp _ => .asl
  | .php => .php
  | .oraImm _ => .ora
  | .aslAcc => .asl
  | .oraAbs _ => .ora
  | .aslAbs _ => .asl
  | .bpl _ => .bpl
  | .oraIndY _ => .ora
  | .oraZpX _ => .ora
  | .aslZpX _ => .asl
  | .clc => .clc
  | .oraAbsY _ => .ora
  | .oraAbsX _ => .ora
  | .aslAbsX _ => .asl
  | .jsr _ => .jsr
  | .andIndX _ => .and
  | .bitZp _ => .bit
  | .andZp _ => .and
  | .rolZp _ => .rol
  | .plp => .plp
  | .andImm _ => .and
  | .rolAcc => .rol
  | .bitAbs _ => .bit
  | .andAbs _ => .and
  | .rolAbs _ => .rol
  | .bmi _ => .bmi
  | .andIndY _ => .and
  | .andZpX _ => .and
  | .rolZpX _ => .rol
  | .sec => .sec
  | .andAbsY _ => .and
  | .andAbsX _ => .and
  | .rolAbsX _ => .rol
  | .rti => .rti
  | .eorIndX _ => .eor
  | .eorZp _ => .eor
  | .lsrZp _ => .lsr
  | .pha => .pha
  | .eorImm _ => .eor
  | .lsrAcc => .lsr
  | .jmpAbs _ => .jmp
  | .eorAbs _ => .eor
  | .lsrAbs _ => .lsr
  | .bvc _ => .bvc
  | .eorIndY _ => .eor
  | .eorZpX _ => .eor
  | .lsrZpX _ => .lsr
  | .cli => .cli
  | .eorAbsY _ => .eor
  | .eorAbsX _ => .eor
  | .lsrAbsX _ => .lsr
  | .rts => .rts
  | .adcIndX _ => .adc
  | .adcZp _ => .adc
  | .rorZp _ => .ror
  | .pla => .pla
  | .adcImm _ => .adc
  | .rorAcc => .ror
  | .jmpInd _ => .jmp
  | .adcAbs _ => .adc
  | .rorAbs _ => .ror
  | .bvs _ => .bvs
  | .adcIndY _ => .adc
  | .adcZpX _ => .adc
  | .rorZpX _ => .ror
  | .sei => .sei
  | .adcAbsY _ => .adc
  | .adcAbsX _ => .adc
  | .rorAbsX _ => .ror
  | .staIndX _ => .sta
  | .styZp _ => .sty
  | .staZp _ => .sta
  | .stxZp _ => .stx
  | .dey => .dey
  | .txa => .txa
  | .styAbs _ => .sty
  | .staAbs _ => .sta
  | .stxAbs _ => .stx
  | .bcc _ => .bcc
  | .staIndY _ => .sta
  | .styZpX _ => .sty
  | .staZpX _ => .sta
  | .stxZpY _ => .stx
  | .tya => .tya
  | .staAbsY _ => .sta
  | .txs => .txs
  | .staAbsX _ => .sta
  | .ldyImm _ => .ldy
  | .ldaIndX _ => .lda
  | .ldxImm _ => .ldx
  | .ldyZp _ => .ldy
  | .ldaZp _ => .lda
  | .ldxZp _ => .ldx
  | .tay => .tay
  | .ldaImm _ => .lda
  | .tax => .tax
  | .ldyAbs _ => .ldy
  | .ldaAbs _ => .lda
  | .ldxAbs _ => .ldx
  | .bcs _ => .bcs
  | .ldaIndY _ => .lda
  | .ldyZpX _ => .ldy
  | .ldaZpX _ => .lda
  | .ldxZpY _ => .ldx
  | .clv => .clv
  | .ldaAbsY _ => .lda
  | .tsx => .tsx
  | .ldyAbsX _ => .ldy
  | .ldaAbsX _ => .lda
  | .ldxAbsY _ => .ldx
  | .cpyImm _ => .cpy
  | .cmpIndX _ => .cmp
  | .cpyZp _ => .cpy
  | .cmpZp _ => .cmp
  | .decZp _ => .dec
  | .iny => .iny
  | .cmpImm _ => .cmp
  | .dex => .dex
  | .cpyAbs _ => .cpy
  | .cmpAbs _ => .cmp
  | .decAbs _ => .dec
  | .bne _ => .bne
  | .cmpIndY _ => .cmp
  | .cmpZpX _ => .cmp
  | .decZpX _ => .dec
  | .cld => .cld
  | .cmpAbsY _ => .cmp
  | .cmpAbsX _ => .cmp
  | .decAbsX _ => .dec
  | .cpxImm _ => .cpx
  | .sbcIndX _ => .sbc
  | .cpxZp _ => .cpx
  | .sbcZp _ => .sbc
  | .incZp _ => .inc
  | .inx => .inx
  | .sbcImm _ => .sbc
  | .nop => .nop
  | .cpxAbs _ => .cpx
  | .sbcAbs _ => .sbc
  | .incAbs _ => .inc
  | .beq _ => .beq
  | .sbcIndY _ => .sbc
  | .sbcZpX _ => .sbc
  | .incZpX _ => .inc
  | .sed => .sed
  | .sbcAbsY _ => .sbc
  | .sbcAbsX _ => .sbc
  | .incAbsX _ => .inc

/-- The operand of an instruction: its addressing mode with its operand bytes. -/
def Instr.operand : Instr → Operand
  | .brk => .implied
  | .oraIndX b => .memory (.indexedIndirect b)
  | .oraZp b => .memory (.zeroPage b)
  | .aslZp b => .memory (.zeroPage b)
  | .php => .implied
  | .oraImm v => .immediate v
  | .aslAcc => .accumulator
  | .oraAbs w => .memory (.absolute w)
  | .aslAbs w => .memory (.absolute w)
  | .bpl d => .relative d
  | .oraIndY b => .memory (.indirectIndexed b)
  | .oraZpX b => .memory (.zeroPageX b)
  | .aslZpX b => .memory (.zeroPageX b)
  | .clc => .implied
  | .oraAbsY w => .memory (.absoluteY w)
  | .oraAbsX w => .memory (.absoluteX w)
  | .aslAbsX w => .memory (.absoluteX w)
  | .jsr w => .memory (.absolute w)
  | .andIndX b => .memory (.indexedIndirect b)
  | .bitZp b => .memory (.zeroPage b)
  | .andZp b => .memory (.zeroPage b)
  | .rolZp b => .memory (.zeroPage b)
  | .plp => .implied
  | .andImm v => .immediate v
  | .rolAcc => .accumulator
  | .bitAbs w => .memory (.absolute w)
  | .andAbs w => .memory (.absolute w)
  | .rolAbs w => .memory (.absolute w)
  | .bmi d => .relative d
  | .andIndY b => .memory (.indirectIndexed b)
  | .andZpX b => .memory (.zeroPageX b)
  | .rolZpX b => .memory (.zeroPageX b)
  | .sec => .implied
  | .andAbsY w => .memory (.absoluteY w)
  | .andAbsX w => .memory (.absoluteX w)
  | .rolAbsX w => .memory (.absoluteX w)
  | .rti => .implied
  | .eorIndX b => .memory (.indexedIndirect b)
  | .eorZp b => .memory (.zeroPage b)
  | .lsrZp b => .memory (.zeroPage b)
  | .pha => .implied
  | .eorImm v => .immediate v
  | .lsrAcc => .accumulator
  | .jmpAbs w => .memory (.absolute w)
  | .eorAbs w => .memory (.absolute w)
  | .lsrAbs w => .memory (.absolute w)
  | .bvc d => .relative d
  | .eorIndY b => .memory (.indirectIndexed b)
  | .eorZpX b => .memory (.zeroPageX b)
  | .lsrZpX b => .memory (.zeroPageX b)
  | .cli => .implied
  | .eorAbsY w => .memory (.absoluteY w)
  | .eorAbsX w => .memory (.absoluteX w)
  | .lsrAbsX w => .memory (.absoluteX w)
  | .rts => .implied
  | .adcIndX b => .memory (.indexedIndirect b)
  | .adcZp b => .memory (.zeroPage b)
  | .rorZp b => .memory (.zeroPage b)
  | .pla => .implied
  | .adcImm v => .immediate v
  | .rorAcc => .accumulator
  | .jmpInd w => .indirect w
  | .adcAbs w => .memory (.absolute w)
  | .rorAbs w => .memory (.absolute w)
  | .bvs d => .relative d
  | .adcIndY b => .memory (.indirectIndexed b)
  | .adcZpX b => .memory (.zeroPageX b)
  | .rorZpX b => .memory (.zeroPageX b)
  | .sei => .implied
  | .adcAbsY w => .memory (.absoluteY w)
  | .adcAbsX w => .memory (.absoluteX w)
  | .rorAbsX w => .memory (.absoluteX w)
  | .staIndX b => .memory (.indexedIndirect b)
  | .styZp b => .memory (.zeroPage b)
  | .staZp b => .memory (.zeroPage b)
  | .stxZp b => .memory (.zeroPage b)
  | .dey => .implied
  | .txa => .implied
  | .styAbs w => .memory (.absolute w)
  | .staAbs w => .memory (.absolute w)
  | .stxAbs w => .memory (.absolute w)
  | .bcc d => .relative d
  | .staIndY b => .memory (.indirectIndexed b)
  | .styZpX b => .memory (.zeroPageX b)
  | .staZpX b => .memory (.zeroPageX b)
  | .stxZpY b => .memory (.zeroPageY b)
  | .tya => .implied
  | .staAbsY w => .memory (.absoluteY w)
  | .txs => .implied
  | .staAbsX w => .memory (.absoluteX w)
  | .ldyImm v => .immediate v
  | .ldaIndX b => .memory (.indexedIndirect b)
  | .ldxImm v => .immediate v
  | .ldyZp b => .memory (.zeroPage b)
  | .ldaZp b => .memory (.zeroPage b)
  | .ldxZp b => .memory (.zeroPage b)
  | .tay => .implied
  | .ldaImm v => .immediate v
  | .tax => .implied
  | .ldyAbs w => .memory (.absolute w)
  | .ldaAbs w => .memory (.absolute w)
  | .ldxAbs w => .memory (.absolute w)
  | .bcs d => .relative d
  | .ldaIndY b => .memory (.indirectIndexed b)
  | .ldyZpX b => .memory (.zeroPageX b)
  | .ldaZpX b => .memory (.zeroPageX b)
  | .ldxZpY b => .memory (.zeroPageY b)
  | .clv => .implied
  | .ldaAbsY w => .memory (.absoluteY w)
  | .tsx => .implied
  | .ldyAbsX w => .memory (.absoluteX w)
  | .ldaAbsX w => .memory (.absoluteX w)
  | .ldxAbsY w => .memory (.absoluteY w)
  | .cpyImm v => .immediate v
  | .cmpIndX b => .memory (.indexedIndirect b)
  | .cpyZp b => .memory (.zeroPage b)
  | .cmpZp b => .memory (.zeroPage b)
  | .decZp b => .memory (.zeroPage b)
  | .iny => .implied
  | .cmpImm v => .immediate v
  | .dex => .implied
  | .cpyAbs w => .memory (.absolute w)
  | .cmpAbs w => .memory (.absolute w)
  | .decAbs w => .memory (.absolute w)
  | .bne d => .relative d
  | .cmpIndY b => .memory (.indirectIndexed b)
  | .cmpZpX b => .memory (.zeroPageX b)
  | .decZpX b => .memory (.zeroPageX b)
  | .cld => .implied
  | .cmpAbsY w => .memory (.absoluteY w)
  | .cmpAbsX w => .memory (.absoluteX w)
  | .decAbsX w => .memory (.absoluteX w)
  | .cpxImm v => .immediate v
  | .sbcIndX b => .memory (.indexedIndirect b)
  | .cpxZp b => .memory (.zeroPage b)
  | .sbcZp b => .memory (.zeroPage b)
  | .incZp b => .memory (.zeroPage b)
  | .inx => .implied
  | .sbcImm v => .immediate v
  | .nop => .implied
  | .cpxAbs w => .memory (.absolute w)
  | .sbcAbs w => .memory (.absolute w)
  | .incAbs w => .memory (.absolute w)
  | .beq d => .relative d
  | .sbcIndY b => .memory (.indirectIndexed b)
  | .sbcZpX b => .memory (.zeroPageX b)
  | .incZpX b => .memory (.zeroPageX b)
  | .sed => .implied
  | .sbcAbsY w => .memory (.absoluteY w)
  | .sbcAbsX w => .memory (.absoluteX w)
  | .incAbsX w => .memory (.absoluteX w)

/-- The length of an instruction in bytes (30_encoding.md R84): the opcode byte and the mode's operand bytes. -/
def Instr.length (i : Instr) : Nat := 1 + i.operand.mode.operandBytes

/-- The encoder (30_encoding.md R80, R81): the opcode byte, then the operand bytes. -/
def encode (i : Instr) : List Byte := i.opcode :: i.operand.bytes

/-- The base cycle cost of an opcode (30_encoding.md R83). -/
def baseCycles (op : Byte) : Nat :=
  match findRow op with
  | some r => r.cycles
  | none => 0

/-- `Penalty(e, crossed)` (40_sequencer.md R108). -/
def pagePenalty (op : Byte) (crossed : Bool) : Nat :=
  match findRow op with
  | some r => if r.extra = .pageCross ∧ crossed = true then 1 else 0
  | none => 0

/-- The three bytes, lowest address first, of an instruction given as a number whose bit 0 is bit 0 of the first byte;
every bit at `nbits` and above is 0. -/
def tableWordBytes (nbits w : Nat) : List Byte :=
  let u := w % 2 ^ nbits
  [BitVec.ofNat 8 u, BitVec.ofNat 8 (u / 256), BitVec.ofNat 8 (u / 65536)]

/-- What the decoder reads from a word of the opcode table, numbered as the table numbers its bits. -/
def decodeTableWord (nbits w : Nat) : Option Instr :=
  match decode (tableWordBytes nbits w) with
  | .ok (i, _) => some i
  | .error _ => none

end Sys2Proof
end

