-- ==== Sys2Proof/WellFormed.lean ====
section
/-! DEFINITION. Well-formedness: which mnemonic may stand with which addressing mode, from the Encoding line of each
instruction rule (42_load_store.md to 49_flags_transfer_nop.md).  Operand bytes are never checked (30_encoding.md R86),
so an instruction is well formed iff its mnemonic has its mode. -/
namespace Sys2Proof

/-- The eight modes of the accumulator's read instructions (42_load_store.md R155, 43_arith_logic.md, R231). -/
def readModes : List Mode :=
  [.immediate, .zeroPage, .zeroPageX, .absolute, .absoluteX, .absoluteY, .indexedIndirect, .indirectIndexed]

/-- The modes the spec's instruction rules give each mnemonic. -/
def legalModes : Mnemonic → List Mode
  | .lda | .adc | .sbc | .and | .ora | .eor | .cmp => readModes
  | .ldx => [.immediate, .zeroPage, .zeroPageY, .absolute, .absoluteY]
  | .ldy => [.immediate, .zeroPage, .zeroPageX, .absolute, .absoluteX]
  | .sta => [.zeroPage, .zeroPageX, .absolute, .absoluteX, .absoluteY, .indexedIndirect, .indirectIndexed]
  | .stx => [.zeroPage, .zeroPageY, .absolute]
  | .sty => [.zeroPage, .zeroPageX, .absolute]
  | .asl | .lsr | .rol | .ror => [.accumulator, .zeroPage, .zeroPageX, .absolute, .absoluteX]
  | .inc | .dec => [.zeroPage, .zeroPageX, .absolute, .absoluteX]
  | .cpx | .cpy => [.immediate, .zeroPage, .absolute]
  | .bit => [.zeroPage, .absolute]
  | .bcc | .bcs | .beq | .bne | .bmi | .bpl | .bvc | .bvs => [.relative]
  | .jmp => [.absolute, .indirect]
  | .jsr => [.absolute]
  | .rts | .pha | .php | .pla | .plp | .brk | .rti => [.implied]
  | .inx | .iny | .dex | .dey => [.implied]
  | .clc | .cld | .cli | .clv | .sec | .sed | .sei => [.implied]
  | .tax | .tay | .txa | .tya | .tsx | .txs | .nop => [.implied]

/-- A mnemonic with an operand, as assembler text writes it (30_encoding.md R88). -/
structure Form where
  mnemonic : Mnemonic
  operand  : Operand
deriving DecidableEq, Repr

/-- The check: the mnemonic has the operand's mode. -/
def Form.wf (f : Form) : Bool := (legalModes f.mnemonic).contains f.operand.mode

/-- The form of an instruction. -/
def Instr.form (i : Instr) : Form := ⟨i.mnemonic, i.operand⟩

/-- An instruction is well formed iff its form is. -/
def Instr.wf (i : Instr) : Bool := i.form.wf

end Sys2Proof
end

