-- ==== Sys2Proof/Machine/State.lean ====
section
/-! DEFINITION. The state of the machine as plain data (10_state.md), its reset (70_reset_and_hazards.md R370), and
the reasons a step can stop (60_exceptions.md R330). -/
namespace Sys2Proof.Machine

/-- The flags of P with their letters (10_state.md R25). -/
inductive Flag where
  | c | z | i | d | b | r | v | n
deriving DecidableEq, Repr

/-- Whether an access was a read or a write (60_exceptions.md R330). -/
inductive AccessKind where
  | read | write
deriving DecidableEq, Repr

/-- The fault records (60_exceptions.md R330). -/
inductive FaultRecord where
  /-- Raised by the opcode lookup for a byte with no entry: the byte and its address (R331). -/
  | illegalOpcode (op : Byte) (addr : Addr)
  /-- Raised by every memory access at or above MEM_SIZE: the address and the kind (R332). -/
  | outOfRange (addr : Addr) (kind : AccessKind)
  /-- Raised by nothing: a check of the source's construction of a register (R333; log entry 14). -/
  | invalidWidth (width : Nat)
  /-- Raised by nothing: a check of the source's bit access (R333; log entry 14). -/
  | indexOutOfRange (index : Nat)
deriving DecidableEq, Repr

/-- RUN, the sequencer's run status (10_state.md R35). -/
inductive RunStatus where
  | running
  | halted
  | faulted (e : FaultRecord)
deriving DecidableEq, Repr

/-- The memory image: address and byte, addresses strictly rising, no entry that holds `Config.unlistedByte`. -/
abbrev Memory := List Host.Cell

/-- The state of the machine: the register file, CYC, RUN, the memory image with its size, and the run parameters. -/
structure State where
  /-- A, the accumulator (R20). -/
  a : Byte
  /-- X, index register (R21). -/
  x : Byte
  /-- Y, index register (R22). -/
  y : Byte
  /-- S, the stack pointer: the offset of the next free slot in page 1 (R23). -/
  sp : Byte
  /-- PC (R24). -/
  pc : Addr
  /-- P, the status register (R25). -/
  p : Byte
  /-- CYC, the cumulative cycle counter (R34). -/
  cyc : Nat
  /-- RUN (R35). -/
  run : RunStatus
  /-- The memory image (20_memory.md R50). -/
  mem : Memory
  /-- MEM_SIZE, the image's byte count (20_memory.md R50). -/
  memSize : Nat
  /-- STEPS, instructions completed in the current run (R36). -/
  steps : Nat
  /-- BUDGET, the most instructions the current run may complete (R36). -/
  budget : Option Nat
  /-- HALT_REQ, the external halt flag (R36). -/
  haltReq : Bool
deriving DecidableEq, Repr

/-- Why the machine stops.  Each carries the exact state the stop leaves (60_exceptions.md R335), so nothing the spec
says of a faulted state is lost. -/
inductive Fault where
  /-- Raised by `step` for an undefined opcode byte and by every memory access outside the image, in `step`, in an
  instruction's meaning or in the interrupt acknowledge: the record, and the state with the writes made before it and
  RUN = Faulted.  This is the spec's own stop (R334).  Safe. -/
  | raised (e : FaultRecord) (after : State)
  /-- Raised by `step`, `enterRun` and `acknowledge` when RUN is already Faulted: the same record is reported again and
  the state is unchanged (40_sequencer.md R100, R109).  Safe. -/
  | alreadyFaulted (e : FaultRecord) (after : State)
deriving DecidableEq, Repr

/-- What the model does not run. -/
inductive Refusal where
  /-- Raised by an arm of `exec` whose instruction has no meaning yet; no arm is one.  Safe. -/
  | notModelled (mnemonic : String)
  /-- Raised by `loadByte` for an address outside the image: the host can load only bytes its array has
  (20_memory.md R50, R68).  Safe. -/
  | loadOutsideImage (addr : Addr)
  /-- Raised by `injectMemory` for an image of no bytes: 00_scope.md R5 has MEM_SIZE at least 1.  Safe. -/
  | emptyImage
deriving DecidableEq, Repr

/-- The machine right after construction (R370): every register at the value of 10_state.md; the run parameters and
the image, which the host supplies, at the values of log entries 3, 4 and 5. -/
def State.reset : State where
  a := 0x00#8
  x := 0x00#8
  y := 0x00#8
  sp := 0xFF#8
  pc := 0x0000#16
  p := 0x20#8
  cyc := 0
  run := .running
  mem := []
  memSize := Config.conformingMemSize
  steps := 0
  budget := none
  haltReq := false

end Sys2Proof.Machine
end

