-- ==== Sys2Proof/Machine/Flags.lean ====
section
/-! DEFINITION. The status register's flags and every flag computation of the spec: SetNZ (42_load_store.md R151), the
adder (43_arith_logic.md R170), the compare (46_compare_bit.md R230), BIT (R234), the shifts and rotates
(44_shift_rotate.md R190 to R193). -/
namespace Sys2Proof.Machine

/-- The bit of P a flag is (10_state.md R25). -/
def Flag.bit : Flag → Nat
  | .c => 0
  | .z => 1
  | .i => 2
  | .d => 3
  | .b => 4
  | .r => 5
  | .v => 6
  | .n => 7

/-- The byte with only a flag's bit set. -/
def Flag.mask (f : Flag) : Byte := 1#8 <<< f.bit

/-- Reads one flag of a status byte. -/
def flag (f : Flag) (p : Byte) : Bool := p.getLsbD f.bit

/-- Writes one flag of a status byte and leaves the others. -/
def setFlag (f : Flag) (on : Bool) (p : Byte) : Byte :=
  if on then p ||| f.mask else p &&& ~~~f.mask

/-- `SetNZ(v)` (R151): N from bit 7 of the result, Z iff it is 0. -/
def setNZ (v : Byte) (p : Byte) : Byte :=
  setFlag .z (v == 0#8) (setFlag .n (v.getLsbD 7) p)

/-- `AddCore(a, b, cin)` (R170): the sum masked to 8 bits, the carry out, and the signed overflow. -/
def addCore (a b : Byte) (cin : Bool) : Byte × Bool × Bool :=
  let sum := a.toNat + b.toNat + cin.toNat
  let r := BitVec.ofNat 8 sum
  let v := (((a ^^^ b) ^^^ 0x80#8) &&& (a ^^^ r) &&& 0x80#8) != 0#8
  (r, sum.testBit 8, v)

/-- The flags an addition writes: C and V from the adder, N and Z from the result (R171). -/
def setAddFlags (r : Byte × Bool × Bool) (p : Byte) : Byte :=
  setNZ r.1 (setFlag .v r.2.2 (setFlag .c r.2.1 p))

/-- `Compare(reg, m)` (R230): C iff reg >= m unsigned, N and Z from the difference. -/
def compareFlags (reg m : Byte) (p : Byte) : Byte :=
  setNZ (reg - m) (setFlag .c (decide (m.toNat ≤ reg.toNat)) p)

/-- BIT (R234): Z from A and M, N from bit 7 and V from bit 6 of M. -/
def bitFlags (a m : Byte) (p : Byte) : Byte :=
  setFlag .v (m.getLsbD 6) (setFlag .n (m.getLsbD 7) (setFlag .z ((a &&& m) == 0#8) p))

/-- A flag as a byte holding it in bit 0. -/
def carryByte (c : Bool) : Byte := if c then 1#8 else 0#8

/-- ASL (R190): the shifted byte and the new P. -/
def shiftAsl (v : Byte) (p : Byte) : Byte × Byte :=
  let r := v <<< 1
  (r, setNZ r (setFlag .c (v.getLsbD 7) p))

/-- LSR (R191). -/
def shiftLsr (v : Byte) (p : Byte) : Byte × Byte :=
  let r := v >>> 1
  (r, setNZ r (setFlag .c (v.getLsbD 0) p))

/-- ROL (R192): the old carry into bit 0. -/
def shiftRol (v : Byte) (p : Byte) : Byte × Byte :=
  let r := (v <<< 1) ||| carryByte (flag .c p)
  (r, setNZ r (setFlag .c (v.getLsbD 7) p))

/-- ROR (R193): the old carry into bit 7. -/
def shiftRor (v : Byte) (p : Byte) : Byte × Byte :=
  let r := (v >>> 1) ||| (carryByte (flag .c p) <<< 7)
  (r, setNZ r (setFlag .c (v.getLsbD 0) p))

/-- INC of a byte (45_incdec.md R210): N and Z only. -/
def incByte (v : Byte) (p : Byte) : Byte × Byte := (v + 1#8, setNZ (v + 1#8) p)

/-- DEC of a byte (45_incdec.md R211): N and Z only. -/
def decByte (v : Byte) (p : Byte) : Byte × Byte := (v - 1#8, setNZ (v - 1#8) p)

/-- The copy of P that PHP and BRK push: B and R forced to 1 (48_jump_stack.md R277, R280). -/
def pushedByBreak (p : Byte) : Byte := p ||| 0x30#8

/-- The copy of P that the interrupt acknowledge pushes: B forced to 0, R to 1 (60_exceptions.md R338). -/
def pushedByInterrupt (p : Byte) : Byte := (p &&& 0xEF#8) ||| 0x20#8

end Sys2Proof.Machine
end

