-- ==== Sys2Proof/Machine/Ops.lean ====
section
/-! DEFINITION. The named operations over memory and registers: the memory image, the memory port (20_memory.md R51 to
R54), faults (60_exceptions.md R334), the stack (R60), interrupt entry and return (48_jump_stack.md R280, R281;
60_exceptions.md R338), register writes and the completion of a step (40_sequencer.md R107). -/
namespace Sys2Proof.Machine

/-- The byte an image holds at an address. -/
def Memory.read : Memory → Nat → Byte
  | [], _ => Config.unlistedByte
  | (k, v) :: rest, a => if a = k then v else Memory.read rest a

/-- An image with one byte at the front, kept out of the list when it is what an unlisted address reads as. -/
def Memory.place (a : Nat) (v : Byte) (rest : Memory) : Memory :=
  if v = Config.unlistedByte then rest else (a, v) :: rest

/-- The image after a byte is written, in canonical form again. -/
def Memory.write : Memory → Nat → Byte → Memory
  | [], a, v => Memory.place a v []
  | (k, u) :: rest, a, v =>
    if a < k then Memory.place a v ((k, u) :: rest)
    else if a = k then Memory.place a v rest
    else (k, u) :: Memory.write rest a v

/-- Every address of the image is above `lo`. -/
def Memory.above (lo : Nat) : Memory → Bool
  | [] => true
  | (k, _) :: rest => decide (lo < k) && Memory.above lo rest

/-- The canonical form: addresses strictly rising, no cell holding what an unlisted address reads as. -/
def Memory.wf : Memory → Bool
  | [] => true
  | (k, v) :: rest => decide (v ≠ Config.unlistedByte) && Memory.above k rest && Memory.wf rest

/-- Every cell of the image is at a 16-bit address below its size (20_memory.md R50). -/
def Memory.within (size : Nat) : Memory → Bool
  | [] => true
  | (k, _) :: rest => decide (k < size) && decide (k < 65536) && Memory.within size rest

/-- A write of A, masked by the register's width (00_scope.md R8). -/
def State.setA (v : Byte) (s : State) : State := { s with a := v }
/-- A write of X. -/
def State.setX (v : Byte) (s : State) : State := { s with x := v }
/-- A write of Y. -/
def State.setY (v : Byte) (s : State) : State := { s with y := v }
/-- A write of S. -/
def State.setSp (v : Byte) (s : State) : State := { s with sp := v }
/-- A write of PC. -/
def State.setPc (v : Addr) (s : State) : State := { s with pc := v }
/-- A write of P. -/
def State.setP (v : Byte) (s : State) : State := { s with p := v }
/-- A change of the memory image. -/
def State.setMem (m : Memory) (s : State) : State := { s with mem := m }
/-- A write of RUN. -/
def State.setRun (r : RunStatus) (s : State) : State := { s with run := r }

/-- PC moved past `n` bytes, modulo 0x10000 (10_state.md R24). -/
def State.advance (n : Nat) (s : State) : State := s.setPc (s.pc + BitVec.ofNat 16 n)

/-- N and Z of P from a result (42_load_store.md R151). -/
def State.withNZ (v : Byte) (s : State) : State := s.setP (setNZ v s.p)

/-- The end of a completed step: CYC grows by its cost, STEPS by 1 (40_sequencer.md R101, R107). -/
def State.complete (n : Nat) (s : State) : State := { s with cyc := s.cyc + n, steps := s.steps + 1 }

/-- `raise e` (60_exceptions.md R334): the state as it stands with RUN <- Faulted(e). -/
def raise (e : FaultRecord) (s : State) : Fault := .raised e (s.setRun (.faulted e))

/-- What an operation that may raise answers. -/
abbrev Res (α : Type) := Except Fault α

/-- `MemRead(addr, 1)` (20_memory.md R51). -/
def memRead (a : Addr) (s : State) : Except FaultRecord Byte :=
  if a.toNat < s.memSize then .ok (Memory.read s.mem a.toNat) else .error (.outOfRange a .read)

/-- `MemWrite(addr, 1, v)` (20_memory.md R52). -/
def memWrite (a : Addr) (v : Byte) (s : State) : Res State :=
  if a.toNat < s.memSize then .ok (s.setMem (Memory.write s.mem a.toNat v))
  else .error (raise (.outOfRange a .write) s)

/-- The word of two bytes read low byte first (20_memory.md R53, R55). -/
def readPair (lo hi : Addr) (s : State) : Except FaultRecord Addr :=
  match memRead lo s with
  | .error e => .error e
  | .ok l =>
    match memRead hi s with
    | .error e => .error e
    | .ok h => .ok (word16 h l)

/-- `Read16(addr)` (20_memory.md R53): the second address wraps modulo 0x10000. -/
def read16 (a : Addr) (s : State) : Except FaultRecord Addr := readPair a (a + 1#16) s

/-- A byte as an address in the zero page. -/
def zext16 (b : Byte) : Addr := b.setWidth 16

/-- `sext_16(b)` (00_scope.md R7). -/
def sext16 (b : Byte) : Addr := if b.toNat < 0x80 then zext16 b else zext16 b - 0x100#16

/-- `ZpRead16(p)` (20_memory.md R54): both bytes from the zero page. -/
def zpRead16 (p : Byte) (s : State) : Except FaultRecord Addr := readPair (zext16 p) (zext16 (p + 1#8)) s

/-- The address the stack pointer designates (20_memory.md R60). -/
def stackAddr (sp : Byte) : Addr := 0x0100#16 + zext16 sp

/-- `Push(v)` (20_memory.md R60): write, then decrement S. -/
def push (v : Byte) (s : State) : Res State :=
  match memWrite (stackAddr s.sp) v s with
  | .error f => .error f
  | .ok t => .ok (t.setSp (t.sp - 1#8))

/-- `Pull()` (20_memory.md R60): increment S, then read. -/
def pull (s : State) : Res (Byte × State) :=
  let t := s.setSp (s.sp + 1#8)
  match memRead (stackAddr t.sp) t with
  | .error e => .error (raise e t)
  | .ok v => .ok (v, t)

/-- A 16-bit push, high byte first (48_jump_stack.md). -/
def pushWord (w : Addr) (s : State) : Res State :=
  match push (hiByte w) s with
  | .error f => .error f
  | .ok t => push (loByte w) t

/-- A 16-bit pull, low byte first (48_jump_stack.md). -/
def pullWord (s : State) : Res (Addr × State) :=
  match pull s with
  | .error f => .error f
  | .ok (lo, t) =>
    match pull t with
    | .error f => .error f
    | .ok (hi, u) => .ok (word16 hi lo, u)

/-- The NMI vector (20_memory.md R59). -/
def nmiVector : Addr := 0xFFFA#16

/-- The IRQ and BRK vector (20_memory.md R59). -/
def irqVector : Addr := 0xFFFE#16

/-- Interrupt entry, shared by BRK and the acknowledge: PC pushed high byte first, then the given copy of P, then
I set, then PC from the vector (48_jump_stack.md R280, 60_exceptions.md R338). -/
def enterInterrupt (pushed : Byte) (vector : Addr) (s : State) : Res State :=
  match pushWord s.pc s with
  | .error f => .error f
  | .ok t =>
    match push pushed t with
    | .error f => .error f
    | .ok u =>
      let u := u.setP (setFlag .i true u.p)
      match read16 vector u with
      | .error e => .error (raise e u)
      | .ok target => .ok (u.setPc target)

/-- Return from interrupt (48_jump_stack.md R281): P pulled whole, then PC, with no + 1. -/
def returnFromInterrupt (s : State) : Res State :=
  match pull s with
  | .error f => .error f
  | .ok (p, t) =>
    match pullWord (t.setP p) with
    | .error f => .error f
    | .ok (pc, u) => .ok (u.setPc pc)

end Sys2Proof.Machine
end

