-- ==== Sys2Proof/Machine/Operands.lean ====
section
/-! DEFINITION. The addressing-mode resolver (41_address_resolver.md): the effective address and page-crossed bit of
the eight memory modes, the indirect and relative targets, and the shared shapes of execution that read, write or
transfer control through them (40_sequencer.md R101). -/
namespace Sys2Proof.Machine

/-- Two addresses lie in different pages (41_address_resolver.md R136). -/
def crosses (base result : Addr) : Bool := (base &&& 0xFF00#16) != (result &&& 0xFF00#16)

/-- The effective address and page-crossed bit of a memory operand (R125 to R130, R132, R133). -/
def resolve (m : MemOperand) (s : State) : Except FaultRecord (Addr × Bool) :=
  match m with
  | .zeroPage b => .ok (zext16 b, false)
  | .zeroPageX b => .ok (zext16 (b + s.x), false)
  | .zeroPageY b => .ok (zext16 (b + s.y), false)
  | .absolute w => .ok (w, false)
  | .absoluteX w => .ok (w + zext16 s.x, crosses w (w + zext16 s.x))
  | .absoluteY w => .ok (w + zext16 s.y, crosses w (w + zext16 s.y))
  | .indexedIndirect b =>
    match zpRead16 (b + s.x) s with
    | .error e => .error e
    | .ok ea => .ok (ea, false)
  | .indirectIndexed b =>
    match zpRead16 b s with
    | .error e => .error e
    | .ok base => .ok (base + zext16 s.y, crosses base (base + zext16 s.y))

/-- The target of a relative operand, from PC after the branch's two bytes (R134). -/
def relativeTarget (pc : Addr) (d : Byte) : Addr := pc + sext16 d

/-- What a step costs (40_sequencer.md R101): the entry's base, its page-crossing penalty, and the branch extra. -/
def cost (op : Byte) (crossed : Bool) (extra : Nat) : Nat := baseCycles op + pagePenalty op crossed + extra

/-- The outcome of a step from what its effect answered: completed with its cost, or stopped with the fault (R107). -/
def finish (n : Nat) : Res State → Host.Outcome State Fault Refusal
  | .ok s => .next (s.complete n)
  | .error f => .fault f

/-- An instruction of `len` bytes with no memory operand to resolve: its effect runs after PC has passed it. -/
def runPlain (op : Byte) (len : Nat) (f : State → Res State) (s : State) : Host.Outcome State Fault Refusal :=
  finish (cost op false 0) (f (s.advance len))

/-- A one-byte instruction that only writes registers: its effect cannot raise. -/
def runImplied (op : Byte) (f : State → State) (s : State) : Host.Outcome State Fault Refusal :=
  runPlain op 1 (fun t => .ok (f t)) s

/-- The length of an instruction with a memory operand. -/
def memLength (m : MemOperand) : Nat := 1 + m.mode.operandBytes

/-- An immediate read (41_address_resolver.md R124): the operand is the instruction's own second byte. -/
def readImmediate (op : Byte) (v : Byte) (f : Byte → State → State) (s : State) : Host.Outcome State Fault Refusal :=
  runPlain op 2 (fun t => .ok (f v t)) s

/-- A memory read: resolve, load, then the instruction's effect on the byte (R135). -/
def readMemory (op : Byte) (m : MemOperand) (f : Byte → State → State) (s : State) :
    Host.Outcome State Fault Refusal :=
  let t := s.advance (memLength m)
  match resolve m t with
  | .error e => .fault (raise e t)
  | .ok (ea, crossed) =>
    match memRead ea t with
    | .error e => .fault (raise e t)
    | .ok v => .next ((f v t).complete (cost op crossed 0))

/-- A store: resolve, then write, with no read of the destination first (20_memory.md R67). -/
def storeMemory (op : Byte) (m : MemOperand) (v : Byte) (s : State) : Host.Outcome State Fault Refusal :=
  let t := s.advance (memLength m)
  match resolve m t with
  | .error e => .fault (raise e t)
  | .ok (ea, crossed) => finish (cost op crossed 0) (memWrite ea v t)

/-- A read-modify-write of the accumulator (R123): `f` gives the new byte and the new P. -/
def modifyAcc (op : Byte) (f : Byte → Byte → Byte × Byte) (s : State) : Host.Outcome State Fault Refusal :=
  runImplied op (fun t => (t.setA (f t.a t.p).1).setP (f t.a t.p).2) s

/-- A read-modify-write of memory: one read, one write of the same address, then P (44_shift_rotate.md R194). -/
def modifyMemory (op : Byte) (m : MemOperand) (f : Byte → Byte → Byte × Byte) (s : State) :
    Host.Outcome State Fault Refusal :=
  let t := s.advance (memLength m)
  match resolve m t with
  | .error e => .fault (raise e t)
  | .ok (ea, crossed) =>
    match memRead ea t with
    | .error e => .fault (raise e t)
    | .ok v =>
      match memWrite ea (f v t.p).1 t with
      | .error e => .fault e
      | .ok u => .next ((u.setP (f v t.p).2).complete (cost op crossed 0))

/-- `Branch(cond, Target(t), crossed)` (47_branch.md R250) with its cost (R259). -/
def branchIf (op : Byte) (f : Flag) (on : Bool) (d : Byte) (s : State) : Host.Outcome State Fault Refusal :=
  let t := s.advance 2
  let target := relativeTarget t.pc d
  if flag f t.p = on then
    .next ((t.setPc target).complete (cost op false (1 + (crosses t.pc target).toNat)))
  else .next (t.complete (cost op false 0))

end Sys2Proof.Machine
end

