-- ==== Sys2Proof/Machine/ArithLogic.lean ====
section
/-! DEFINITION. The meanings of the arithmetic and logic (43_arith_logic.md R171 to R177): one definition per row of the opcode table. -/
namespace Sys2Proof.Machine

/-- An addition into A: the result and its four flags (R171). -/
def addToA (m : Byte) (s : State) : State :=
  let r := addCore s.a m (flag .c s.p)
  (s.setA r.1).setP (setAddFlags r s.p)

/-- ADC's effect (R171). -/
def addA (m : Byte) (s : State) : State := addToA m s

/-- SBC's effect (R172): ADC with the operand's one's complement. -/
def subA (m : Byte) (s : State) : State := addToA (m ^^^ 0xFF#8) s

/-- AND's effect (R175). -/
def andA (m : Byte) (s : State) : State := (s.setA (s.a &&& m)).withNZ (s.a &&& m)

/-- ORA's effect (R176). -/
def orA (m : Byte) (s : State) : State := (s.setA (s.a ||| m)).withNZ (s.a ||| m)

/-- EOR's effect (R177). -/
def xorA (m : Byte) (s : State) : State := (s.setA (s.a ^^^ m)).withNZ (s.a ^^^ m)

/-- 0x61 ADC, (zero page,X) (R171, R132). -/
def execAdcIndX (b : Byte) (s : State) : Host.Outcome State Fault Refusal :=
  readMemory 0x61#8 (.indexedIndirect b) addA s

/-- 0x65 ADC, zero page (R171, R125). -/
def execAdcZp (b : Byte) (s : State) : Host.Outcome State Fault Refusal :=
  readMemory 0x65#8 (.zeroPage b) addA s

/-- 0x69 ADC, immediate (R171, R124). -/
def execAdcImm (v : Byte) (s : State) : Host.Outcome State Fault Refusal :=
  readImmediate 0x69#8 v addA s

/-- 0x6D ADC, absolute (R171, R128). -/
def execAdcAbs (w : Addr) (s : State) : Host.Outcome State Fault Refusal :=
  readMemory 0x6D#8 (.absolute w) addA s

/-- 0x71 ADC, (zero page),Y (R171, R133). -/
def execAdcIndY (b : Byte) (s : State) : Host.Outcome State Fault Refusal :=
  readMemory 0x71#8 (.indirectIndexed b) addA s

/-- 0x75 ADC, zero page,X (R171, R126). -/
def execAdcZpX (b : Byte) (s : State) : Host.Outcome State Fault Refusal :=
  readMemory 0x75#8 (.zeroPageX b) addA s

/-- 0x79 ADC, absolute,Y (R171, R130). -/
def execAdcAbsY (w : Addr) (s : State) : Host.Outcome State Fault Refusal :=
  readMemory 0x79#8 (.absoluteY w) addA s

/-- 0x7D ADC, absolute,X (R171, R129). -/
def execAdcAbsX (w : Addr) (s : State) : Host.Outcome State Fault Refusal :=
  readMemory 0x7D#8 (.absoluteX w) addA s

/-- 0xE1 SBC, (zero page,X) (R172, R132). -/
def execSbcIndX (b : Byte) (s : State) : Host.Outcome State Fault Refusal :=
  readMemory 0xE1#8 (.indexedIndirect b) subA s

/-- 0xE5 SBC, zero page (R172, R125). -/
def execSbcZp (b : Byte) (s : State) : Host.Outcome State Fault Refusal :=
  readMemory 0xE5#8 (.zeroPage b) subA s

/-- 0xE9 SBC, immediate (R172, R124). -/
def execSbcImm (v : Byte) (s : State) : Host.Outcome State Fault Refusal :=
  readImmediate 0xE9#8 v subA s

/-- 0xED SBC, absolute (R172, R128). -/
def execSbcAbs (w : Addr) (s : State) : Host.Outcome State Fault Refusal :=
  readMemory 0xED#8 (.absolute w) subA s

/-- 0xF1 SBC, (zero page),Y (R172, R133). -/
def execSbcIndY (b : Byte) (s : State) : Host.Outcome State Fault Refusal :=
  readMemory 0xF1#8 (.indirectIndexed b) subA s

/-- 0xF5 SBC, zero page,X (R172, R126). -/
def execSbcZpX (b : Byte) (s : State) : Host.Outcome State Fault Refusal :=
  readMemory 0xF5#8 (.zeroPageX b) subA s

/-- 0xF9 SBC, absolute,Y (R172, R130). -/
def execSbcAbsY (w : Addr) (s : State) : Host.Outcome State Fault Refusal :=
  readMemory 0xF9#8 (.absoluteY w) subA s

/-- 0xFD SBC, absolute,X (R172, R129). -/
def execSbcAbsX (w : Addr) (s : State) : Host.Outcome State Fault Refusal :=
  readMemory 0xFD#8 (.absoluteX w) subA s

/-- 0x21 AND, (zero page,X) (R175, R132). -/
def execAndIndX (b : Byte) (s : State) : Host.Outcome State Fault Refusal :=
  readMemory 0x21#8 (.indexedIndirect b) andA s

/-- 0x25 AND, zero page (R175, R125). -/
def execAndZp (b : Byte) (s : State) : Host.Outcome State Fault Refusal :=
  readMemory 0x25#8 (.zeroPage b) andA s

/-- 0x29 AND, immediate (R175, R124). -/
def execAndImm (v : Byte) (s : State) : Host.Outcome State Fault Refusal :=
  readImmediate 0x29#8 v andA s

/-- 0x2D AND, absolute (R175, R128). -/
def execAndAbs (w : Addr) (s : State) : Host.Outcome State Fault Refusal :=
  readMemory 0x2D#8 (.absolute w) andA s

/-- 0x31 AND, (zero page),Y (R175, R133). -/
def execAndIndY (b : Byte) (s : State) : Host.Outcome State Fault Refusal :=
  readMemory 0x31#8 (.indirectIndexed b) andA s

/-- 0x35 AND, zero page,X (R175, R126). -/
def execAndZpX (b : Byte) (s : State) : Host.Outcome State Fault Refusal :=
  readMemory 0x35#8 (.zeroPageX b) andA s

/-- 0x39 AND, absolute,Y (R175, R130). -/
def execAndAbsY (w : Addr) (s : State) : Host.Outcome State Fault Refusal :=
  readMemory 0x39#8 (.absoluteY w) andA s

/-- 0x3D AND, absolute,X (R175, R129). -/
def execAndAbsX (w : Addr) (s : State) : Host.Outcome State Fault Refusal :=
  readMemory 0x3D#8 (.absoluteX w) andA s

/-- 0x01 ORA, (zero page,X) (R176, R132). -/
def execOraIndX (b : Byte) (s : State) : Host.Outcome State Fault Refusal :=
  readMemory 0x01#8 (.indexedIndirect b) orA s

/-- 0x05 ORA, zero page (R176, R125). -/
def execOraZp (b : Byte) (s : State) : Host.Outcome State Fault Refusal :=
  readMemory 0x05#8 (.zeroPage b) orA s

/-- 0x09 ORA, immediate (R176, R124). -/
def execOraImm (v : Byte) (s : State) : Host.Outcome State Fault Refusal :=
  readImmediate 0x09#8 v orA s

/-- 0x0D ORA, absolute (R176, R128). -/
def execOraAbs (w : Addr) (s : State) : Host.Outcome State Fault Refusal :=
  readMemory 0x0D#8 (.absolute w) orA s

/-- 0x11 ORA, (zero page),Y (R176, R133). -/
def execOraIndY (b : Byte) (s : State) : Host.Outcome State Fault Refusal :=
  readMemory 0x11#8 (.indirectIndexed b) orA s

/-- 0x15 ORA, zero page,X (R176, R126). -/
def execOraZpX (b : Byte) (s : State) : Host.Outcome State Fault Refusal :=
  readMemory 0x15#8 (.zeroPageX b) orA s

/-- 0x19 ORA, absolute,Y (R176, R130). -/
def execOraAbsY (w : Addr) (s : State) : Host.Outcome State Fault Refusal :=
  readMemory 0x19#8 (.absoluteY w) orA s

/-- 0x1D ORA, absolute,X (R176, R129). -/
def execOraAbsX (w : Addr) (s : State) : Host.Outcome State Fault Refusal :=
  readMemory 0x1D#8 (.absoluteX w) orA s

/-- 0x41 EOR, (zero page,X) (R177, R132). -/
def execEorIndX (b : Byte) (s : State) : Host.Outcome State Fault Refusal :=
  readMemory 0x41#8 (.indexedIndirect b) xorA s

/-- 0x45 EOR, zero page (R177, R125). -/
def execEorZp (b : Byte) (s : State) : Host.Outcome State Fault Refusal :=
  readMemory 0x45#8 (.zeroPage b) xorA s

/-- 0x49 EOR, immediate (R177, R124). -/
def execEorImm (v : Byte) (s : State) : Host.Outcome State Fault Refusal :=
  readImmediate 0x49#8 v xorA s

/-- 0x4D EOR, absolute (R177, R128). -/
def execEorAbs (w : Addr) (s : State) : Host.Outcome State Fault Refusal :=
  readMemory 0x4D#8 (.absolute w) xorA s

/-- 0x51 EOR, (zero page),Y (R177, R133). -/
def execEorIndY (b : Byte) (s : State) : Host.Outcome State Fault Refusal :=
  readMemory 0x51#8 (.indirectIndexed b) xorA s

/-- 0x55 EOR, zero page,X (R177, R126). -/
def execEorZpX (b : Byte) (s : State) : Host.Outcome State Fault Refusal :=
  readMemory 0x55#8 (.zeroPageX b) xorA s

/-- 0x59 EOR, absolute,Y (R177, R130). -/
def execEorAbsY (w : Addr) (s : State) : Host.Outcome State Fault Refusal :=
  readMemory 0x59#8 (.absoluteY w) xorA s

/-- 0x5D EOR, absolute,X (R177, R129). -/
def execEorAbsX (w : Addr) (s : State) : Host.Outcome State Fault Refusal :=
  readMemory 0x5D#8 (.absoluteX w) xorA s

end Sys2Proof.Machine
end

