-- ==== Sys2Proof/Machine/Branch.lean ====
section
/-! DEFINITION. The meanings of the conditional branches (47_branch.md R250 to R259): one definition per row of the opcode table. -/
namespace Sys2Proof.Machine

/-- 0x90 BCC, relative (R251, R134). -/
def execBcc (d : Byte) (s : State) : Host.Outcome State Fault Refusal :=
  branchIf 0x90#8 .c false d s

/-- 0xB0 BCS, relative (R252, R134). -/
def execBcs (d : Byte) (s : State) : Host.Outcome State Fault Refusal :=
  branchIf 0xB0#8 .c true d s

/-- 0xF0 BEQ, relative (R253, R134). -/
def execBeq (d : Byte) (s : State) : Host.Outcome State Fault Refusal :=
  branchIf 0xF0#8 .z true d s

/-- 0xD0 BNE, relative (R254, R134). -/
def execBne (d : Byte) (s : State) : Host.Outcome State Fault Refusal :=
  branchIf 0xD0#8 .z false d s

/-- 0x30 BMI, relative (R255, R134). -/
def execBmi (d : Byte) (s : State) : Host.Outcome State Fault Refusal :=
  branchIf 0x30#8 .n true d s

/-- 0x10 BPL, relative (R256, R134). -/
def execBpl (d : Byte) (s : State) : Host.Outcome State Fault Refusal :=
  branchIf 0x10#8 .n false d s

/-- 0x50 BVC, relative (R257, R134). -/
def execBvc (d : Byte) (s : State) : Host.Outcome State Fault Refusal :=
  branchIf 0x50#8 .v false d s

/-- 0x70 BVS, relative (R258, R134). -/
def execBvs (d : Byte) (s : State) : Host.Outcome State Fault Refusal :=
  branchIf 0x70#8 .v true d s

end Sys2Proof.Machine
end

