-- ==== Sys2Proof/Machine/CompareBit.lean ====
section
/-! DEFINITION. The meanings of the compare and bit test (46_compare_bit.md R230 to R234): one definition per row of the opcode table. -/
namespace Sys2Proof.Machine

/-- CMP's effect (R231). -/
def compareA (m : Byte) (s : State) : State := s.setP (compareFlags s.a m s.p)

/-- CPX's effect (R232). -/
def compareX (m : Byte) (s : State) : State := s.setP (compareFlags s.x m s.p)

/-- CPY's effect (R233). -/
def compareY (m : Byte) (s : State) : State := s.setP (compareFlags s.y m s.p)

/-- BIT's effect (R234). -/
def bitTest (m : Byte) (s : State) : State := s.setP (bitFlags s.a m s.p)

/-- 0xC1 CMP, (zero page,X) (R231, R132). -/
def execCmpIndX (b : Byte) (s : State) : Host.Outcome State Fault Refusal :=
  readMemory 0xC1#8 (.indexedIndirect b) compareA s

/-- 0xC5 CMP, zero page (R231, R125). -/
def execCmpZp (b : Byte) (s : State) : Host.Outcome State Fault Refusal :=
  readMemory 0xC5#8 (.zeroPage b) compareA s

/-- 0xC9 CMP, immediate (R231, R124). -/
def execCmpImm (v : Byte) (s : State) : Host.Outcome State Fault Refusal :=
  readImmediate 0xC9#8 v compareA s

/-- 0xCD CMP, absolute (R231, R128). -/
def execCmpAbs (w : Addr) (s : State) : Host.Outcome State Fault Refusal :=
  readMemory 0xCD#8 (.absolute w) compareA s

/-- 0xD1 CMP, (zero page),Y (R231, R133). -/
def execCmpIndY (b : Byte) (s : State) : Host.Outcome State Fault Refusal :=
  readMemory 0xD1#8 (.indirectIndexed b) compareA s

/-- 0xD5 CMP, zero page,X (R231, R126). -/
def execCmpZpX (b : Byte) (s : State) : Host.Outcome State Fault Refusal :=
  readMemory 0xD5#8 (.zeroPageX b) compareA s

/-- 0xD9 CMP, absolute,Y (R231, R130). -/
def execCmpAbsY (w : Addr) (s : State) : Host.Outcome State Fault Refusal :=
  readMemory 0xD9#8 (.absoluteY w) compareA s

/-- 0xDD CMP, absolute,X (R231, R129). -/
def execCmpAbsX (w : Addr) (s : State) : Host.Outcome State Fault Refusal :=
  readMemory 0xDD#8 (.absoluteX w) compareA s

/-- 0xE0 CPX, immediate (R232, R124). -/
def execCpxImm (v : Byte) (s : State) : Host.Outcome State Fault Refusal :=
  readImmediate 0xE0#8 v compareX s

/-- 0xE4 CPX, zero page (R232, R125). -/
def execCpxZp (b : Byte) (s : State) : Host.Outcome State Fault Refusal :=
  readMemory 0xE4#8 (.zeroPage b) compareX s

/-- 0xEC CPX, absolute (R232, R128). -/
def execCpxAbs (w : Addr) (s : State) : Host.Outcome State Fault Refusal :=
  readMemory 0xEC#8 (.absolute w) compareX s

/-- 0xC0 CPY, immediate (R233, R124). -/
def execCpyImm (v : Byte) (s : State) : Host.Outcome State Fault Refusal :=
  readImmediate 0xC0#8 v compareY s

/-- 0xC4 CPY, zero page (R233, R125). -/
def execCpyZp (b : Byte) (s : State) : Host.Outcome State Fault Refusal :=
  readMemory 0xC4#8 (.zeroPage b) compareY s

/-- 0xCC CPY, absolute (R233, R128). -/
def execCpyAbs (w : Addr) (s : State) : Host.Outcome State Fault Refusal :=
  readMemory 0xCC#8 (.absolute w) compareY s

/-- 0x24 BIT, zero page (R234, R125). -/
def execBitZp (b : Byte) (s : State) : Host.Outcome State Fault Refusal :=
  readMemory 0x24#8 (.zeroPage b) bitTest s

/-- 0x2C BIT, absolute (R234, R128). -/
def execBitAbs (w : Addr) (s : State) : Host.Outcome State Fault Refusal :=
  readMemory 0x2C#8 (.absolute w) bitTest s

end Sys2Proof.Machine
end

