-- ==== Sys2Proof/Machine/FlagTransfer.lean ====
section
/-! DEFINITION. The meanings of the flag operations, transfers and NOP (49_flags_transfer_nop.md R300 to R313): one definition per row of the opcode table. -/
namespace Sys2Proof.Machine

/-- 0x18 CLC, implied (R300, R122). -/
def execClc (s : State) : Host.Outcome State Fault Refusal :=
  runImplied 0x18#8 (fun t => t.setP (setFlag .c false t.p)) s

/-- 0xD8 CLD, implied (R301, R122). -/
def execCld (s : State) : Host.Outcome State Fault Refusal :=
  runImplied 0xD8#8 (fun t => t.setP (setFlag .d false t.p)) s

/-- 0x58 CLI, implied (R302, R122). -/
def execCli (s : State) : Host.Outcome State Fault Refusal :=
  runImplied 0x58#8 (fun t => t.setP (setFlag .i false t.p)) s

/-- 0xB8 CLV, implied (R303, R122). -/
def execClv (s : State) : Host.Outcome State Fault Refusal :=
  runImplied 0xB8#8 (fun t => t.setP (setFlag .v false t.p)) s

/-- 0x38 SEC, implied (R304, R122). -/
def execSec (s : State) : Host.Outcome State Fault Refusal :=
  runImplied 0x38#8 (fun t => t.setP (setFlag .c true t.p)) s

/-- 0xF8 SED, implied (R305, R122). -/
def execSed (s : State) : Host.Outcome State Fault Refusal :=
  runImplied 0xF8#8 (fun t => t.setP (setFlag .d true t.p)) s

/-- 0x78 SEI, implied (R306, R122). -/
def execSei (s : State) : Host.Outcome State Fault Refusal :=
  runImplied 0x78#8 (fun t => t.setP (setFlag .i true t.p)) s

/-- 0xAA TAX, implied (R307, R122). -/
def execTax (s : State) : Host.Outcome State Fault Refusal :=
  runImplied 0xAA#8 (fun t => (t.setX t.a).withNZ t.a) s

/-- 0xA8 TAY, implied (R308, R122). -/
def execTay (s : State) : Host.Outcome State Fault Refusal :=
  runImplied 0xA8#8 (fun t => (t.setY t.a).withNZ t.a) s

/-- 0x8A TXA, implied (R309, R122). -/
def execTxa (s : State) : Host.Outcome State Fault Refusal :=
  runImplied 0x8A#8 (fun t => (t.setA t.x).withNZ t.x) s

/-- 0x98 TYA, implied (R310, R122). -/
def execTya (s : State) : Host.Outcome State Fault Refusal :=
  runImplied 0x98#8 (fun t => (t.setA t.y).withNZ t.y) s

/-- 0xBA TSX, implied (R311, R122). -/
def execTsx (s : State) : Host.Outcome State Fault Refusal :=
  runImplied 0xBA#8 (fun t => (t.setX t.sp).withNZ t.sp) s

/-- 0x9A TXS, implied (R312, R122). -/
def execTxs (s : State) : Host.Outcome State Fault Refusal :=
  runImplied 0x9A#8 (fun t => t.setSp t.x) s

/-- 0xEA NOP, implied (R313, R122). -/
def execNop (s : State) : Host.Outcome State Fault Refusal :=
  runImplied 0xEA#8 (fun t => t) s

end Sys2Proof.Machine
end

