-- ==== Sys2Proof/Machine/IncDec.lean ====
section
/-! DEFINITION. The meanings of the increment and decrement (45_incdec.md R210 to R215): one definition per row of the opcode table. -/
namespace Sys2Proof.Machine

/-- 0xE6 INC, zero page (R210, R125). -/
def execIncZp (b : Byte) (s : State) : Host.Outcome State Fault Refusal :=
  modifyMemory 0xE6#8 (.zeroPage b) incByte s

/-- 0xEE INC, absolute (R210, R128). -/
def execIncAbs (w : Addr) (s : State) : Host.Outcome State Fault Refusal :=
  modifyMemory 0xEE#8 (.absolute w) incByte s

/-- 0xF6 INC, zero page,X (R210, R126). -/
def execIncZpX (b : Byte) (s : State) : Host.Outcome State Fault Refusal :=
  modifyMemory 0xF6#8 (.zeroPageX b) incByte s

/-- 0xFE INC, absolute,X (R210, R129). -/
def execIncAbsX (w : Addr) (s : State) : Host.Outcome State Fault Refusal :=
  modifyMemory 0xFE#8 (.absoluteX w) incByte s

/-- 0xC6 DEC, zero page (R211, R125). -/
def execDecZp (b : Byte) (s : State) : Host.Outcome State Fault Refusal :=
  modifyMemory 0xC6#8 (.zeroPage b) decByte s

/-- 0xCE DEC, absolute (R211, R128). -/
def execDecAbs (w : Addr) (s : State) : Host.Outcome State Fault Refusal :=
  modifyMemory 0xCE#8 (.absolute w) decByte s

/-- 0xD6 DEC, zero page,X (R211, R126). -/
def execDecZpX (b : Byte) (s : State) : Host.Outcome State Fault Refusal :=
  modifyMemory 0xD6#8 (.zeroPageX b) decByte s

/-- 0xDE DEC, absolute,X (R211, R129). -/
def execDecAbsX (w : Addr) (s : State) : Host.Outcome State Fault Refusal :=
  modifyMemory 0xDE#8 (.absoluteX w) decByte s

/-- 0xE8 INX, implied (R212, R122). -/
def execInx (s : State) : Host.Outcome State Fault Refusal :=
  runImplied 0xE8#8 (fun t => (t.setX (t.x + 1#8)).withNZ (t.x + 1#8)) s

/-- 0xC8 INY, implied (R213, R122). -/
def execIny (s : State) : Host.Outcome State Fault Refusal :=
  runImplied 0xC8#8 (fun t => (t.setY (t.y + 1#8)).withNZ (t.y + 1#8)) s

/-- 0xCA DEX, implied (R214, R122). -/
def execDex (s : State) : Host.Outcome State Fault Refusal :=
  runImplied 0xCA#8 (fun t => (t.setX (t.x - 1#8)).withNZ (t.x - 1#8)) s

/-- 0x88 DEY, implied (R215, R122). -/
def execDey (s : State) : Host.Outcome State Fault Refusal :=
  runImplied 0x88#8 (fun t => (t.setY (t.y - 1#8)).withNZ (t.y - 1#8)) s

end Sys2Proof.Machine
end

