-- ==== Sys2Proof/Machine/JumpStack.lean ====
section
/-! DEFINITION. The meanings of the jumps, subroutines, stack operations, BRK and RTI (48_jump_stack.md R272 to R281): one definition per row of the opcode table. -/
namespace Sys2Proof.Machine

/-- JSR's effect (R274), PC having passed its three bytes: PC - 1 pushed, then PC at the target. -/
def callSub (target : Addr) (s : State) : Res State :=
  match pushWord (s.pc - 1#16) s with
  | .error f => .error f
  | .ok t => .ok (t.setPc target)

/-- RTS's effect (R275): the pulled word + 1. -/
def returnFromSub (s : State) : Res State :=
  match pullWord s with
  | .error f => .error f
  | .ok (w, t) => .ok (t.setPc (w + 1#16))

/-- JMP indirect's effect (41_address_resolver.md R131, R272): no page wrap of the pointer. -/
def jumpIndirect (ptr : Addr) (s : State) : Res State :=
  match read16 ptr s with
  | .error e => .error (raise e s)
  | .ok target => .ok (s.setPc target)

/-- PLA's effect (R278). -/
def pullA (s : State) : Res State :=
  match pull s with
  | .error f => .error f
  | .ok (v, t) => .ok ((t.setA v).withNZ v)

/-- PLP's effect (R279): all eight bits. -/
def pullP (s : State) : Res State :=
  match pull s with
  | .error f => .error f
  | .ok (v, t) => .ok (t.setP v)

/-- 0x4C JMP, absolute (R272, R128). -/
def execJmpAbs (w : Addr) (s : State) : Host.Outcome State Fault Refusal :=
  runPlain 0x4C#8 3 (fun t => .ok (t.setPc w)) s

/-- 0x6C JMP, indirect (R272, R131). -/
def execJmpInd (w : Addr) (s : State) : Host.Outcome State Fault Refusal :=
  runPlain 0x6C#8 3 (jumpIndirect w) s

/-- 0x20 JSR, absolute (R274, R128). -/
def execJsr (w : Addr) (s : State) : Host.Outcome State Fault Refusal :=
  runPlain 0x20#8 3 (callSub w) s

/-- 0x60 RTS, implied (R275, R122). -/
def execRts (s : State) : Host.Outcome State Fault Refusal :=
  runPlain 0x60#8 1 returnFromSub s

/-- 0x48 PHA, implied (R276, R122). -/
def execPha (s : State) : Host.Outcome State Fault Refusal :=
  runPlain 0x48#8 1 (fun t => push t.a t) s

/-- 0x08 PHP, implied (R277, R122). -/
def execPhp (s : State) : Host.Outcome State Fault Refusal :=
  runPlain 0x08#8 1 (fun t => push (pushedByBreak t.p) t) s

/-- 0x68 PLA, implied (R278, R122). -/
def execPla (s : State) : Host.Outcome State Fault Refusal :=
  runPlain 0x68#8 1 pullA s

/-- 0x28 PLP, implied (R279, R122). -/
def execPlp (s : State) : Host.Outcome State Fault Refusal :=
  runPlain 0x28#8 1 pullP s

/-- 0x00 BRK, implied (R280, R122). -/
def execBrk (s : State) : Host.Outcome State Fault Refusal :=
  runPlain 0x00#8 1 (fun t => enterInterrupt (pushedByBreak t.p) irqVector t) s

/-- 0x40 RTI, implied (R281, R122). -/
def execRti (s : State) : Host.Outcome State Fault Refusal :=
  runPlain 0x40#8 1 returnFromInterrupt s

end Sys2Proof.Machine
end

