-- ==== Sys2Proof/Machine/LoadStore.lean ====
section
/-! DEFINITION. The meanings of the loads and stores (42_load_store.md R155 to R160): one definition per row of the opcode table. -/
namespace Sys2Proof.Machine

/-- LDA's effect (R155): A from the byte, N and Z from it. -/
def loadA (v : Byte) (s : State) : State := (s.setA v).withNZ v

/-- LDX's effect (R156). -/
def loadX (v : Byte) (s : State) : State := (s.setX v).withNZ v

/-- LDY's effect (R157). -/
def loadY (v : Byte) (s : State) : State := (s.setY v).withNZ v

/-- 0xA1 LDA, (zero page,X) (R155, R132). -/
def execLdaIndX (b : Byte) (s : State) : Host.Outcome State Fault Refusal :=
  readMemory 0xA1#8 (.indexedIndirect b) loadA s

/-- 0xA5 LDA, zero page (R155, R125). -/
def execLdaZp (b : Byte) (s : State) : Host.Outcome State Fault Refusal :=
  readMemory 0xA5#8 (.zeroPage b) loadA s

/-- 0xA9 LDA, immediate (R155, R124). -/
def execLdaImm (v : Byte) (s : State) : Host.Outcome State Fault Refusal :=
  readImmediate 0xA9#8 v loadA s

/-- 0xAD LDA, absolute (R155, R128). -/
def execLdaAbs (w : Addr) (s : State) : Host.Outcome State Fault Refusal :=
  readMemory 0xAD#8 (.absolute w) loadA s

/-- 0xB1 LDA, (zero page),Y (R155, R133). -/
def execLdaIndY (b : Byte) (s : State) : Host.Outcome State Fault Refusal :=
  readMemory 0xB1#8 (.indirectIndexed b) loadA s

/-- 0xB5 LDA, zero page,X (R155, R126). -/
def execLdaZpX (b : Byte) (s : State) : Host.Outcome State Fault Refusal :=
  readMemory 0xB5#8 (.zeroPageX b) loadA s

/-- 0xB9 LDA, absolute,Y (R155, R130). -/
def execLdaAbsY (w : Addr) (s : State) : Host.Outcome State Fault Refusal :=
  readMemory 0xB9#8 (.absoluteY w) loadA s

/-- 0xBD LDA, absolute,X (R155, R129). -/
def execLdaAbsX (w : Addr) (s : State) : Host.Outcome State Fault Refusal :=
  readMemory 0xBD#8 (.absoluteX w) loadA s

/-- 0xA2 LDX, immediate (R156, R124). -/
def execLdxImm (v : Byte) (s : State) : Host.Outcome State Fault Refusal :=
  readImmediate 0xA2#8 v loadX s

/-- 0xA6 LDX, zero page (R156, R125). -/
def execLdxZp (b : Byte) (s : State) : Host.Outcome State Fault Refusal :=
  readMemory 0xA6#8 (.zeroPage b) loadX s

/-- 0xAE LDX, absolute (R156, R128). -/
def execLdxAbs (w : Addr) (s : State) : Host.Outcome State Fault Refusal :=
  readMemory 0xAE#8 (.absolute w) loadX s

/-- 0xB6 LDX, zero page,Y (R156, R127). -/
def execLdxZpY (b : Byte) (s : State) : Host.Outcome State Fault Refusal :=
  readMemory 0xB6#8 (.zeroPageY b) loadX s

/-- 0xBE LDX, absolute,Y (R156, R130). -/
def execLdxAbsY (w : Addr) (s : State) : Host.Outcome State Fault Refusal :=
  readMemory 0xBE#8 (.absoluteY w) loadX s

/-- 0xA0 LDY, immediate (R157, R124). -/
def execLdyImm (v : Byte) (s : State) : Host.Outcome State Fault Refusal :=
  readImmediate 0xA0#8 v loadY s

/-- 0xA4 LDY, zero page (R157, R125). -/
def execLdyZp (b : Byte) (s : State) : Host.Outcome State Fault Refusal :=
  readMemory 0xA4#8 (.zeroPage b) loadY s

/-- 0xAC LDY, absolute (R157, R128). -/
def execLdyAbs (w : Addr) (s : State) : Host.Outcome State Fault Refusal :=
  readMemory 0xAC#8 (.absolute w) loadY s

/-- 0xB4 LDY, zero page,X (R157, R126). -/
def execLdyZpX (b : Byte) (s : State) : Host.Outcome State Fault Refusal :=
  readMemory 0xB4#8 (.zeroPageX b) loadY s

/-- 0xBC LDY, absolute,X (R157, R129). -/
def execLdyAbsX (w : Addr) (s : State) : Host.Outcome State Fault Refusal :=
  readMemory 0xBC#8 (.absoluteX w) loadY s

/-- 0x81 STA, (zero page,X) (R158, R132). -/
def execStaIndX (b : Byte) (s : State) : Host.Outcome State Fault Refusal :=
  storeMemory 0x81#8 (.indexedIndirect b) s.a s

/-- 0x85 STA, zero page (R158, R125). -/
def execStaZp (b : Byte) (s : State) : Host.Outcome State Fault Refusal :=
  storeMemory 0x85#8 (.zeroPage b) s.a s

/-- 0x8D STA, absolute (R158, R128). -/
def execStaAbs (w : Addr) (s : State) : Host.Outcome State Fault Refusal :=
  storeMemory 0x8D#8 (.absolute w) s.a s

/-- 0x91 STA, (zero page),Y (R158, R133). -/
def execStaIndY (b : Byte) (s : State) : Host.Outcome State Fault Refusal :=
  storeMemory 0x91#8 (.indirectIndexed b) s.a s

/-- 0x95 STA, zero page,X (R158, R126). -/
def execStaZpX (b : Byte) (s : State) : Host.Outcome State Fault Refusal :=
  storeMemory 0x95#8 (.zeroPageX b) s.a s

/-- 0x99 STA, absolute,Y (R158, R130). -/
def execStaAbsY (w : Addr) (s : State) : Host.Outcome State Fault Refusal :=
  storeMemory 0x99#8 (.absoluteY w) s.a s

/-- 0x9D STA, absolute,X (R158, R129). -/
def execStaAbsX (w : Addr) (s : State) : Host.Outcome State Fault Refusal :=
  storeMemory 0x9D#8 (.absoluteX w) s.a s

/-- 0x86 STX, zero page (R159, R125). -/
def execStxZp (b : Byte) (s : State) : Host.Outcome State Fault Refusal :=
  storeMemory 0x86#8 (.zeroPage b) s.x s

/-- 0x8E STX, absolute (R159, R128). -/
def execStxAbs (w : Addr) (s : State) : Host.Outcome State Fault Refusal :=
  storeMemory 0x8E#8 (.absolute w) s.x s

/-- 0x96 STX, zero page,Y (R159, R127). -/
def execStxZpY (b : Byte) (s : State) : Host.Outcome State Fault Refusal :=
  storeMemory 0x96#8 (.zeroPageY b) s.x s

/-- 0x84 STY, zero page (R160, R125). -/
def execStyZp (b : Byte) (s : State) : Host.Outcome State Fault Refusal :=
  storeMemory 0x84#8 (.zeroPage b) s.y s

/-- 0x8C STY, absolute (R160, R128). -/
def execStyAbs (w : Addr) (s : State) : Host.Outcome State Fault Refusal :=
  storeMemory 0x8C#8 (.absolute w) s.y s

/-- 0x94 STY, zero page,X (R160, R126). -/
def execStyZpX (b : Byte) (s : State) : Host.Outcome State Fault Refusal :=
  storeMemory 0x94#8 (.zeroPageX b) s.y s

end Sys2Proof.Machine
end

