-- ==== Sys2Proof/Machine/ShiftRotate.lean ====
section
/-! DEFINITION. The meanings of the shifts and rotates (44_shift_rotate.md R190 to R194): one definition per row of the opcode table. -/
namespace Sys2Proof.Machine

/-- 0x06 ASL, zero page (R190, R125). -/
def execAslZp (b : Byte) (s : State) : Host.Outcome State Fault Refusal :=
  modifyMemory 0x06#8 (.zeroPage b) shiftAsl s

/-- 0x0A ASL, accumulator (R190, R123). -/
def execAslAcc (s : State) : Host.Outcome State Fault Refusal :=
  modifyAcc 0x0A#8 shiftAsl s

/-- 0x0E ASL, absolute (R190, R128). -/
def execAslAbs (w : Addr) (s : State) : Host.Outcome State Fault Refusal :=
  modifyMemory 0x0E#8 (.absolute w) shiftAsl s

/-- 0x16 ASL, zero page,X (R190, R126). -/
def execAslZpX (b : Byte) (s : State) : Host.Outcome State Fault Refusal :=
  modifyMemory 0x16#8 (.zeroPageX b) shiftAsl s

/-- 0x1E ASL, absolute,X (R190, R129). -/
def execAslAbsX (w : Addr) (s : State) : Host.Outcome State Fault Refusal :=
  modifyMemory 0x1E#8 (.absoluteX w) shiftAsl s

/-- 0x46 LSR, zero page (R191, R125). -/
def execLsrZp (b : Byte) (s : State) : Host.Outcome State Fault Refusal :=
  modifyMemory 0x46#8 (.zeroPage b) shiftLsr s

/-- 0x4A LSR, accumulator (R191, R123). -/
def execLsrAcc (s : State) : Host.Outcome State Fault Refusal :=
  modifyAcc 0x4A#8 shiftLsr s

/-- 0x4E LSR, absolute (R191, R128). -/
def execLsrAbs (w : Addr) (s : State) : Host.Outcome State Fault Refusal :=
  modifyMemory 0x4E#8 (.absolute w) shiftLsr s

/-- 0x56 LSR, zero page,X (R191, R126). -/
def execLsrZpX (b : Byte) (s : State) : Host.Outcome State Fault Refusal :=
  modifyMemory 0x56#8 (.zeroPageX b) shiftLsr s

/-- 0x5E LSR, absolute,X (R191, R129). -/
def execLsrAbsX (w : Addr) (s : State) : Host.Outcome State Fault Refusal :=
  modifyMemory 0x5E#8 (.absoluteX w) shiftLsr s

/-- 0x26 ROL, zero page (R192, R125). -/
def execRolZp (b : Byte) (s : State) : Host.Outcome State Fault Refusal :=
  modifyMemory 0x26#8 (.zeroPage b) shiftRol s

/-- 0x2A ROL, accumulator (R192, R123). -/
def execRolAcc (s : State) : Host.Outcome State Fault Refusal :=
  modifyAcc 0x2A#8 shiftRol s

/-- 0x2E ROL, absolute (R192, R128). -/
def execRolAbs (w : Addr) (s : State) : Host.Outcome State Fault Refusal :=
  modifyMemory 0x2E#8 (.absolute w) shiftRol s

/-- 0x36 ROL, zero page,X (R192, R126). -/
def execRolZpX (b : Byte) (s : State) : Host.Outcome State Fault Refusal :=
  modifyMemory 0x36#8 (.zeroPageX b) shiftRol s

/-- 0x3E ROL, absolute,X (R192, R129). -/
def execRolAbsX (w : Addr) (s : State) : Host.Outcome State Fault Refusal :=
  modifyMemory 0x3E#8 (.absoluteX w) shiftRol s

/-- 0x66 ROR, zero page (R193, R125). -/
def execRorZp (b : Byte) (s : State) : Host.Outcome State Fault Refusal :=
  modifyMemory 0x66#8 (.zeroPage b) shiftRor s

/-- 0x6A ROR, accumulator (R193, R123). -/
def execRorAcc (s : State) : Host.Outcome State Fault Refusal :=
  modifyAcc 0x6A#8 shiftRor s

/-- 0x6E ROR, absolute (R193, R128). -/
def execRorAbs (w : Addr) (s : State) : Host.Outcome State Fault Refusal :=
  modifyMemory 0x6E#8 (.absolute w) shiftRor s

/-- 0x76 ROR, zero page,X (R193, R126). -/
def execRorZpX (b : Byte) (s : State) : Host.Outcome State Fault Refusal :=
  modifyMemory 0x76#8 (.zeroPageX b) shiftRor s

/-- 0x7E ROR, absolute,X (R193, R129). -/
def execRorAbsX (w : Addr) (s : State) : Host.Outcome State Fault Refusal :=
  modifyMemory 0x7E#8 (.absoluteX w) shiftRor s

end Sys2Proof.Machine
end

