-- ==== Sys2Proof/Machine/Dispatch.lean ====
section
/-! DEFINITION. The dispatch: each instruction's one meaning. -/
namespace Sys2Proof.Machine

def exec (i : Instr) (s : State) : Host.Outcome State Fault Refusal :=
  match i with
  | .brk => Sys2Proof.Machine.execBrk s
  | .oraIndX b => Sys2Proof.Machine.execOraIndX b s
  | .oraZp b => Sys2Proof.Machine.execOraZp b s
  | .aslZp b => Sys2Proof.Machine.execAslZp b s
  | .php => Sys2Proof.Machine.execPhp s
  | .oraImm v => Sys2Proof.Machine.execOraImm v s
  | .aslAcc => Sys2Proof.Machine.execAslAcc s
  | .oraAbs w => Sys2Proof.Machine.execOraAbs w s
  | .aslAbs w => Sys2Proof.Machine.execAslAbs w s
  | .bpl d => Sys2Proof.Machine.execBpl d s
  | .oraIndY b => Sys2Proof.Machine.execOraIndY b s
  | .oraZpX b => Sys2Proof.Machine.execOraZpX b s
  | .aslZpX b => Sys2Proof.Machine.execAslZpX b s
  | .clc => Sys2Proof.Machine.execClc s
  | .oraAbsY w => Sys2Proof.Machine.execOraAbsY w s
  | .oraAbsX w => Sys2Proof.Machine.execOraAbsX w s
  | .aslAbsX w => Sys2Proof.Machine.execAslAbsX w s
  | .jsr w => Sys2Proof.Machine.execJsr w s
  | .andIndX b => Sys2Proof.Machine.execAndIndX b s
  | .bitZp b => Sys2Proof.Machine.execBitZp b s
  | .andZp b => Sys2Proof.Machine.execAndZp b s
  | .rolZp b => Sys2Proof.Machine.execRolZp b s
  | .plp => Sys2Proof.Machine.execPlp s
  | .andImm v => Sys2Proof.Machine.execAndImm v s
  | .rolAcc => Sys2Proof.Machine.execRolAcc s
  | .bitAbs w => Sys2Proof.Machine.execBitAbs w s
  | .andAbs w => Sys2Proof.Machine.execAndAbs w s
  | .rolAbs w => Sys2Proof.Machine.execRolAbs w s
  | .bmi d => Sys2Proof.Machine.execBmi d s
  | .andIndY b => Sys2Proof.Machine.execAndIndY b s
  | .andZpX b => Sys2Proof.Machine.execAndZpX b s
  | .rolZpX b => Sys2Proof.Machine.execRolZpX b s
  | .sec => Sys2Proof.Machine.execSec s
  | .andAbsY w => Sys2Proof.Machine.execAndAbsY w s
  | .andAbsX w => Sys2Proof.Machine.execAndAbsX w s
  | .rolAbsX w => Sys2Proof.Machine.execRolAbsX w s
  | .rti => Sys2Proof.Machine.execRti s
  | .eorIndX b => Sys2Proof.Machine.execEorIndX b s
  | .eorZp b => Sys2Proof.Machine.execEorZp b s
  | .lsrZp b => Sys2Proof.Machine.execLsrZp b s
  | .pha => Sys2Proof.Machine.execPha s
  | .eorImm v => Sys2Proof.Machine.execEorImm v s
  | .lsrAcc => Sys2Proof.Machine.execLsrAcc s
  | .jmpAbs w => Sys2Proof.Machine.execJmpAbs w s
  | .eorAbs w => Sys2Proof.Machine.execEorAbs w s
  | .lsrAbs w => Sys2Proof.Machine.execLsrAbs w s
  | .bvc d => Sys2Proof.Machine.execBvc d s
  | .eorIndY b => Sys2Proof.Machine.execEorIndY b s
  | .eorZpX b => Sys2Proof.Machine.execEorZpX b s
  | .lsrZpX b => Sys2Proof.Machine.execLsrZpX b s
  | .cli => Sys2Proof.Machine.execCli s
  | .eorAbsY w => Sys2Proof.Machine.execEorAbsY w s
  | .eorAbsX w => Sys2Proof.Machine.execEorAbsX w s
  | .lsrAbsX w => Sys2Proof.Machine.execLsrAbsX w s
  | .rts => Sys2Proof.Machine.execRts s
  | .adcIndX b => Sys2Proof.Machine.execAdcIndX b s
  | .adcZp b => Sys2Proof.Machine.execAdcZp b s
  | .rorZp b => Sys2Proof.Machine.execRorZp b s
  | .pla => Sys2Proof.Machine.execPla s
  | .adcImm v => Sys2Proof.Machine.execAdcImm v s
  | .rorAcc => Sys2Proof.Machine.execRorAcc s
  | .jmpInd w => Sys2Proof.Machine.execJmpInd w s
  | .adcAbs w => Sys2Proof.Machine.execAdcAbs w s
  | .rorAbs w => Sys2Proof.Machine.execRorAbs w s
  | .bvs d => Sys2Proof.Machine.execBvs d s
  | .adcIndY b => Sys2Proof.Machine.execAdcIndY b s
  | .adcZpX b => Sys2Proof.Machine.execAdcZpX b s
  | .rorZpX b => Sys2Proof.Machine.execRorZpX b s
  | .sei => Sys2Proof.Machine.execSei s
  | .adcAbsY w => Sys2Proof.Machine.execAdcAbsY w s
  | .adcAbsX w => Sys2Proof.Machine.execAdcAbsX w s
  | .rorAbsX w => Sys2Proof.Machine.execRorAbsX w s
  | .staIndX b => Sys2Proof.Machine.execStaIndX b s
  | .styZp b => Sys2Proof.Machine.execStyZp b s
  | .staZp b => Sys2Proof.Machine.execStaZp b s
  | .stxZp b => Sys2Proof.Machine.execStxZp b s
  | .dey => Sys2Proof.Machine.execDey s
  | .txa => Sys2Proof.Machine.execTxa s
  | .styAbs w => Sys2Proof.Machine.execStyAbs w s
  | .staAbs w => Sys2Proof.Machine.execStaAbs w s
  | .stxAbs w => Sys2Proof.Machine.execStxAbs w s
  | .bcc d => Sys2Proof.Machine.execBcc d s
  | .staIndY b => Sys2Proof.Machine.execStaIndY b s
  | .styZpX b => Sys2Proof.Machine.execStyZpX b s
  | .staZpX b => Sys2Proof.Machine.execStaZpX b s
  | .stxZpY b => Sys2Proof.Machine.execStxZpY b s
  | .tya => Sys2Proof.Machine.execTya s
  | .staAbsY w => Sys2Proof.Machine.execStaAbsY w s
  | .txs => Sys2Proof.Machine.execTxs s
  | .staAbsX w => Sys2Proof.Machine.execStaAbsX w s
  | .ldyImm v => Sys2Proof.Machine.execLdyImm v s
  | .ldaIndX b => Sys2Proof.Machine.execLdaIndX b s
  | .ldxImm v => Sys2Proof.Machine.execLdxImm v s
  | .ldyZp b => Sys2Proof.Machine.execLdyZp b s
  | .ldaZp b => Sys2Proof.Machine.execLdaZp b s
  | .ldxZp b => Sys2Proof.Machine.execLdxZp b s
  | .tay => Sys2Proof.Machine.execTay s
  | .ldaImm v => Sys2Proof.Machine.execLdaImm v s
  | .tax => Sys2Proof.Machine.execTax s
  | .ldyAbs w => Sys2Proof.Machine.execLdyAbs w s
  | .ldaAbs w => Sys2Proof.Machine.execLdaAbs w s
  | .ldxAbs w => Sys2Proof.Machine.execLdxAbs w s
  | .bcs d => Sys2Proof.Machine.execBcs d s
  | .ldaIndY b => Sys2Proof.Machine.execLdaIndY b s
  | .ldyZpX b => Sys2Proof.Machine.execLdyZpX b s
  | .ldaZpX b => Sys2Proof.Machine.execLdaZpX b s
  | .ldxZpY b => Sys2Proof.Machine.execLdxZpY b s
  | .clv => Sys2Proof.Machine.execClv s
  | .ldaAbsY w => Sys2Proof.Machine.execLdaAbsY w s
  | .tsx => Sys2Proof.Machine.execTsx s
  | .ldyAbsX w => Sys2Proof.Machine.execLdyAbsX w s
  | .ldaAbsX w => Sys2Proof.Machine.execLdaAbsX w s
  | .ldxAbsY w => Sys2Proof.Machine.execLdxAbsY w s
  | .cpyImm v => Sys2Proof.Machine.execCpyImm v s
  | .cmpIndX b => Sys2Proof.Machine.execCmpIndX b s
  | .cpyZp b => Sys2Proof.Machine.execCpyZp b s
  | .cmpZp b => Sys2Proof.Machine.execCmpZp b s
  | .decZp b => Sys2Proof.Machine.execDecZp b s
  | .iny => Sys2Proof.Machine.execIny s
  | .cmpImm v => Sys2Proof.Machine.execCmpImm v s
  | .dex => Sys2Proof.Machine.execDex s
  | .cpyAbs w => Sys2Proof.Machine.execCpyAbs w s
  | .cmpAbs w => Sys2Proof.Machine.execCmpAbs w s
  | .decAbs w => Sys2Proof.Machine.execDecAbs w s
  | .bne d => Sys2Proof.Machine.execBne d s
  | .cmpIndY b => Sys2Proof.Machine.execCmpIndY b s
  | .cmpZpX b => Sys2Proof.Machine.execCmpZpX b s
  | .decZpX b => Sys2Proof.Machine.execDecZpX b s
  | .cld => Sys2Proof.Machine.execCld s
  | .cmpAbsY w => Sys2Proof.Machine.execCmpAbsY w s
  | .cmpAbsX w => Sys2Proof.Machine.execCmpAbsX w s
  | .decAbsX w => Sys2Proof.Machine.execDecAbsX w s
  | .cpxImm v => Sys2Proof.Machine.execCpxImm v s
  | .sbcIndX b => Sys2Proof.Machine.execSbcIndX b s
  | .cpxZp b => Sys2Proof.Machine.execCpxZp b s
  | .sbcZp b => Sys2Proof.Machine.execSbcZp b s
  | .incZp b => Sys2Proof.Machine.execIncZp b s
  | .inx => Sys2Proof.Machine.execInx s
  | .sbcImm v => Sys2Proof.Machine.execSbcImm v s
  | .nop => Sys2Proof.Machine.execNop s
  | .cpxAbs w => Sys2Proof.Machine.execCpxAbs w s
  | .sbcAbs w => Sys2Proof.Machine.execSbcAbs w s
  | .incAbs w => Sys2Proof.Machine.execIncAbs w s
  | .beq d => Sys2Proof.Machine.execBeq d s
  | .sbcIndY b => Sys2Proof.Machine.execSbcIndY b s
  | .sbcZpX b => Sys2Proof.Machine.execSbcZpX b s
  | .incZpX b => Sys2Proof.Machine.execIncZpX b s
  | .sed => Sys2Proof.Machine.execSed s
  | .sbcAbsY w => Sys2Proof.Machine.execSbcAbsY w s
  | .sbcAbsX w => Sys2Proof.Machine.execSbcAbsX w s
  | .incAbsX w => Sys2Proof.Machine.execIncAbsX w s

end Sys2Proof.Machine
end

