-- ==== Sys2Proof/Machine/Fetch.lean ====
section
/-! DEFINITION. Fetching the next instruction's bytes, the halt condition, and placing an instruction where it is
fetched (40_sequencer.md R102 to R105; 41_address_resolver.md R121, R124). -/
namespace Sys2Proof.Machine

/-- `FetchByte()` (R121): the byte at PC, then PC advances; if the read raises, PC is not advanced. -/
def fetchByte (s : State) : Res (Byte × State) :=
  match memRead s.pc s with
  | .error e => .error (raise e s)
  | .ok b => .ok (b, s.advance 1)

/-- The operand bytes of a mode, read at PC.  The byte of an immediate operand is read with PC already past it (R124),
which shows only in the PC of a fault. -/
def fetchOperand (m : Mode) (s : State) : Res (List Byte) :=
  if m = .immediate then
    match memRead s.pc s with
    | .error e => .error (raise e (s.advance 1))
    | .ok b => .ok [b]
  else
    match m.operandBytes with
    | 0 => .ok []
    | 1 =>
      match fetchByte s with
      | .error f => .error f
      | .ok (b, _) => .ok [b]
    | _ =>
      match fetchByte s with
      | .error f => .error f
      | .ok (lo, t) =>
        match fetchByte t with
        | .error f => .error f
        | .ok (hi, _) => .ok [lo, hi]

/-- The instruction at PC (R101, R103, R104): the opcode byte, its entry, its operand bytes, decoded.  A byte with no
entry raises IllegalOpcode with PC one past it and no operand byte read. -/
def fetch (s : State) : Res Instr :=
  match fetchByte s with
  | .error f => .error f
  | .ok (op, t) =>
    match findRow op with
    | none => .error (raise (.illegalOpcode op s.pc) t)
    | some r =>
      match fetchOperand r.mode t with
      | .error f => .error f
      | .ok bs =>
        match decode (op :: bs) with
        | .ok (i, _) => .ok i
        | .error _ => .error (raise (.illegalOpcode op s.pc) t)

/-- The budget is a number and STEPS has reached it (R102, condition 2). -/
def budgetSpent (s : State) : Bool :=
  match s.budget with
  | none => false
  | some n => decide (n ≤ s.steps)

/-- `HaltCondition()` (R102): the halt flag, the budget, or PC at or past the end of the image. -/
def haltCondition (s : State) : Bool :=
  s.haltReq || budgetSpent s || decide (s.memSize ≤ s.pc.toNat)

/-- The image with the given bytes stored from an address on, wrapping at 0x10000. -/
def placeBytes : List Byte → Addr → Memory → Memory
  | [], _, m => m
  | b :: bs, a, m => placeBytes bs (a + 1#16) (Memory.write m a.toNat b)

/-- A state whose next step fetches at PC: Running, no halt condition, every 16-bit address backed (log entry 13).
It changes nothing in a state that is so already, State.reset among them. -/
def ready (s : State) : State :=
  { s with
    run := .running
    haltReq := false
    budget := if budgetSpent s then none else s.budget
    memSize := if s.memSize < Config.conformingMemSize then Config.conformingMemSize else s.memSize }

end Sys2Proof.Machine
end

