-- ==== Sys2Proof/Machine/Step.lean ====
section
/-! DEFINITION. One step of the sequencer (40_sequencer.md R100, R101), and the state whose next step runs a given word. -/
namespace Sys2Proof.Machine

/-- `Step()` (R101).  Running: halt if a halt condition holds, else fetch and execute one instruction.  Halted: no step
changes anything (10_state.md R35).  Faulted: the record is reported again (R109). -/
def step (s : State) : Host.Outcome State Fault Refusal :=
  match s.run with
  | .halted => .next s
  | .faulted e => .fault (.alreadyFaulted e s)
  | .running =>
    if haltCondition s then .next (s.setRun .halted)
    else
      match fetch s with
      | .error f => .fault f
      | .ok i => exec i s

/-- `s` with an instruction word of the opcode table stored where `step` fetches next. -/
def State.withFetchWord (s : State) (nbits w : Nat) : State :=
  (ready s).setMem (placeBytes (tableWordBytes nbits w) s.pc s.mem)

end Sys2Proof.Machine
end

