-- ==== Sys2Proof/Machine/HostOps.lean ====
section
/-! DEFINITION. What the host can do between steps (60_exceptions.md R338 to R341, R350; 40_sequencer.md R109): run
entries, the halt flag, the interrupt acknowledge, memory injection, program loading, setting and reading registers. -/
namespace Sys2Proof.Machine

/-- The numeric code of a fault record (60_exceptions.md R330). -/
def FaultRecord.code : FaultRecord → Nat
  | .illegalOpcode _ _ => 1
  | .outOfRange _ _ => 2
  | .invalidWidth _ => 3
  | .indexOutOfRange _ => 4

/-- The two hardware interrupt kinds (R337). -/
inductive InterruptKind where
  | nmi | irq
deriving DecidableEq, Repr

/-- The vector of an interrupt kind (R338). -/
def InterruptKind.vector : InterruptKind → Addr
  | .nmi => nmiVector
  | .irq => irqVector

/-- What the acknowledge answers (R338). -/
inductive AckResult where
  | taken (s : State)
  | notTaken
  | fault (f : Fault)
deriving DecidableEq, Repr

/-- The entry of a taken acknowledge: no flag but I changes, CYC grows by 7, RUN and STEPS stay (R338). -/
def takeInterrupt (k : InterruptKind) (s : State) : AckResult :=
  match enterInterrupt (pushedByInterrupt s.p) k.vector s with
  | .ok t => .taken { t with cyc := t.cyc + 7 }
  | .error f => .fault f

/-- `Acknowledge(kind)` (R338 to R340): IRQ is masked by I, NMI by nothing.  The host may not call it on a faulted
core; there it reports the record again and changes nothing (log entry 15). -/
def acknowledge (k : InterruptKind) (s : State) : AckResult :=
  match s.run with
  | .faulted e => .fault (.alreadyFaulted e s)
  | _ => if k = .irq ∧ flag .i s.p = true then .notTaken else takeInterrupt k s

/-- A run entry (40_sequencer.md R109): BUDGET set, STEPS zeroed, Halted becomes Running; a faulted core reports its
record again. -/
def enterRun (budget : Option Nat) (s : State) : Host.Outcome State Fault Refusal :=
  match s.run with
  | .faulted e => .fault (.alreadyFaulted e s)
  | _ => .next { s with budget := budget, steps := 0, run := .running }

/-- The run loop `Step() while RUN = Running`, cut off after `fuel` steps. -/
def runLoop : Nat → State → Host.Outcome State Fault Refusal
  | 0, s => .next s
  | fuel + 1, s =>
    match s.run with
    | .running =>
      match step s with
      | .next t => runLoop fuel t
      | .fault f => .fault f
      | .refused r => .refused r
    | _ => .next s

/-- `RunAtMost(N)` (R109): N completed steps and the step that halts are all it can take. -/
def runAtMost (n : Nat) (s : State) : Host.Outcome State Fault Refusal :=
  match enterRun (some n) s with
  | .next t => runLoop (n + 1) t
  | .fault f => .fault f
  | .refused r => .refused r

/-- `RunUntilHalted()` (R109), cut off after `fuel` steps: a run need not end (R110), so the function takes a bound and
answers the state reached (log entry 18). -/
def runUntilHalted (fuel : Nat) (s : State) : Host.Outcome State Fault Refusal :=
  match enterRun none s with
  | .next t => runLoop fuel t
  | .fault f => .fault f
  | .refused r => .refused r

/-- The halt request (R350): HALT_REQ is the host's to set and to clear. -/
def setHaltReq (b : Bool) (s : State) : State := { s with haltReq := b }

/-- Program loading (20_memory.md R68): one byte into the host's array. -/
def loadByte (a : Addr) (v : Byte) (s : State) : Host.Outcome State Fault Refusal :=
  if a.toNat < s.memSize then .next (s.setMem (Memory.write s.mem a.toNat v))
  else .refused (.loadOutsideImage a)

/-- The image of a list of bytes from an address on; bytes at 0x10000 and above are never reached (20_memory.md R50). -/
def imageFrom : List Byte → Nat → Memory
  | [], _ => []
  | b :: bs, a => if a < 65536 then Memory.place a b (imageFrom bs (a + 1)) else []

/-- Memory injection (R350): the byte array and its size. -/
def injectMemory (image : List Byte) (s : State) : Host.Outcome State Fault Refusal :=
  if image.length = 0 then .refused .emptyImage
  else .next { s with mem := imageFrom image 0, memSize := image.length }

/-- Set registers (R350): any values of A, X, Y, S, P, PC. -/
def setRegisters (a x y sp p : Byte) (pc : Addr) (s : State) : State :=
  { s with a := a, x := x, y := y, sp := sp, p := p, pc := pc }

/-- What introspection returns (R350). -/
structure Snapshot where
  pc  : Addr
  a   : Byte
  x   : Byte
  y   : Byte
  sp  : Byte
  p   : Byte
  cyc : Nat
deriving DecidableEq, Repr

/-- Introspection (R350): reads and changes nothing. -/
def introspect (s : State) : Snapshot := ⟨s.pc, s.a, s.x, s.y, s.sp, s.p, s.cyc⟩

end Sys2Proof.Machine
end

