-- ==== Sys2Proof/Safety.lean ====
section
/-! DEFINITION. What counts as a safe state and the vocabulary the claims are stated in: the invariant of the state, the
value an operand reads, the state after an instruction has passed, and which flags a status byte may differ in. -/
namespace Sys2Proof.Machine

/-- The invariant of every reachable state: the image is in canonical form, holds cells only at 16-bit addresses below
its size, and has at least one byte (20_memory.md R50, 00_scope.md R5). -/
def State.Inv (s : State) : Prop :=
  Memory.wf s.mem = true ∧ Memory.within s.memSize s.mem = true ∧ 1 ≤ s.memSize

/-- The image is conforming: every 16-bit address is backed (20_memory.md R50). -/
def State.Conforming (s : State) : Prop := 65536 ≤ s.memSize

end Sys2Proof.Machine

namespace Sys2Proof.Claims

open Sys2Proof.Machine

/-- A machine that will execute an instruction at its next step: Running and no halt condition (40_sequencer.md R102). -/
def Ready (s : State) : Prop := s.run = .running ∧ haltCondition s = false

/-- The address is backed by the image (20_memory.md R50). -/
def Backed (s : State) (a : Addr) : Prop := a.toNat < s.memSize

/-- What an operand reads in a state, with its page-crossed bit: an immediate its own byte, the accumulator A, a memory
operand the byte at its effective address; an operand that is not read has no answer. -/
def readOperand : Operand → State → Option (Except FaultRecord (Byte × Bool))
  | .immediate v, _ => some (.ok (v, false))
  | .accumulator, s => some (.ok (s.a, false))
  | .memory m, s =>
    match resolve m s with
    | .error e => some (.error e)
    | .ok (ea, crossed) =>
      match memRead ea s with
      | .error e => some (.error e)
      | .ok v => some (.ok (v, crossed))
  | _, _ => none

/-- The state after an instruction that changed nothing but PC, CYC (by `n`) and STEPS. -/
def passed (i : Instr) (n : Nat) (s : State) : State :=
  { s with pc := s.pc + BitVec.ofNat 16 i.length, cyc := s.cyc + n, steps := s.steps + 1 }

/-- The state a fault leaves when the instruction changed nothing but PC before it. -/
def stopped (i : Instr) (e : FaultRecord) (s : State) : State :=
  { s with pc := s.pc + BitVec.ofNat 16 i.length, run := .faulted e }

/-- The instruction stops with a fault record, having changed nothing but PC. -/
def Stops (i : Instr) (e : FaultRecord) (s : State) : Prop := exec i s = .fault (.raised e (stopped i e s))

/-- Two status bytes agree on every flag outside the list. -/
def OnlyFlags (fs : List Flag) (p q : Byte) : Prop := ∀ f, f ∉ fs → flag f q = flag f p

/-- N and Z of a status byte are those of an 8-bit result (42_load_store.md R151). -/
def NZ (v q : Byte) : Prop := flag .n q = decide (128 ≤ v.toNat) ∧ flag .z q = decide (v.toNat = 0)

/-- `m'` is `m` with these bytes stored, the first pair of an address counting, and every other byte unchanged. -/
def Stores (m m' : Memory) (bytes : List (Nat × Byte)) : Prop :=
  Memory.wf m = true →
    Memory.wf m' = true ∧ ∀ a, Memory.read m' a = (bytes.lookup a).getD (Memory.read m a)

/-- One row of the opcode table as a claim quotes it: opcode byte, mode, base cycles, page-crossing modifier. -/
structure Row where
  op     : Byte
  mode   : Mode
  cycles : Nat
  page   : Bool
deriving DecidableEq, Repr

/-- The row's cost when the operand did or did not cross a page (40_sequencer.md R107, R108). -/
def Row.cost (r : Row) (crossed : Bool) : Nat := r.cycles + (r.page && crossed).toNat

/-- The rows are exactly the encodings of a mnemonic. -/
def Rows (mn : Mnemonic) (rows : List Row) : Prop :=
  ∀ op mode, (∃ i : Instr, i.mnemonic = mn ∧ i.opcode = op ∧ i.operand.mode = mode) ↔
    ∃ r ∈ rows, r.op = op ∧ r.mode = mode

/-- The eight rows of an accumulator read instruction, with the costs of 30_encoding.md R83. -/
def readRows (imm zp zpx abs absx absy indx indy : Byte) : List Row :=
  [⟨imm, .immediate, 2, false⟩, ⟨zp, .zeroPage, 3, false⟩, ⟨zpx, .zeroPageX, 4, false⟩, ⟨abs, .absolute, 4, false⟩,
   ⟨absx, .absoluteX, 4, true⟩, ⟨absy, .absoluteY, 4, true⟩, ⟨indx, .indexedIndirect, 6, false⟩,
   ⟨indy, .indirectIndexed, 5, true⟩]

/-- The rows of a read-modify-write instruction's memory forms. -/
def modifyRows (zp zpx abs absx : Byte) : List Row :=
  [⟨zp, .zeroPage, 5, false⟩, ⟨zpx, .zeroPageX, 6, false⟩, ⟨abs, .absolute, 6, false⟩, ⟨absx, .absoluteX, 7, false⟩]

/-- An instruction that reads one operand: its rows; where the operand reads a byte it completes, and `effect` relates
the byte, the state with the instruction passed, and the next state; where the read raises it stops so. -/
def ReadClaim (mn : Mnemonic) (rows : List Row) (effect : Byte → State → State → Prop) : Prop :=
  Rows mn rows ∧
  (∀ r ∈ rows, ∀ (i : Instr) (s : State) (v : Byte) (crossed : Bool), i.opcode = r.op →
    readOperand i.operand s = some (.ok (v, crossed)) →
    ∃ t, exec i s = .next t ∧ effect v (passed i (r.cost crossed) s) t) ∧
  (∀ (i : Instr) (s : State) (e : FaultRecord), i.mnemonic = mn →
    readOperand i.operand s = some (.error e) → Stops i e s)

/-- An instruction that stores one register: its rows; where the effective address is backed it completes with that one
byte of memory changed; otherwise it stops with memory unchanged. -/
def StoreClaim (mn : Mnemonic) (rows : List Row) (reg : State → Byte) : Prop :=
  Rows mn rows ∧
  (∀ r ∈ rows, ∀ (i : Instr) (s : State) (m : MemOperand) (ea : Addr) (crossed : Bool), i.opcode = r.op →
    i.operand = .memory m → resolve m s = .ok (ea, crossed) → Backed s ea →
    exec i s = .next { passed i r.cycles s with mem := Memory.write s.mem ea.toNat (reg s) } ∧
    Stores s.mem (Memory.write s.mem ea.toNat (reg s)) [(ea.toNat, reg s)]) ∧
  (∀ (i : Instr) (s : State) (m : MemOperand) (ea : Addr) (crossed : Bool), i.mnemonic = mn →
    i.operand = .memory m → resolve m s = .ok (ea, crossed) → ¬ Backed s ea →
    Stops i (.outOfRange ea .write) s)

/-- The memory forms of a read-modify-write instruction: `out` gives the byte written from the byte read and P, `flags`
relates the byte read, P before and P after. -/
def ModifyClaim (mn : Mnemonic) (rows : List Row) (out : Byte → Byte → Byte) (flags : Byte → Byte → Byte → Prop) :
    Prop :=
  (∀ r ∈ rows, ∀ (i : Instr) (s : State) (m : MemOperand) (ea : Addr) (crossed : Bool), i.opcode = r.op →
    i.operand = .memory m → resolve m s = .ok (ea, crossed) → Backed s ea →
    ∃ q, exec i s = .next { passed i r.cycles s with
        p := q, mem := Memory.write s.mem ea.toNat (out (Memory.read s.mem ea.toNat) s.p) } ∧
      flags (Memory.read s.mem ea.toNat) s.p q ∧
      Stores s.mem (Memory.write s.mem ea.toNat (out (Memory.read s.mem ea.toNat) s.p))
        [(ea.toNat, out (Memory.read s.mem ea.toNat) s.p)]) ∧
  (∀ (i : Instr) (s : State) (m : MemOperand) (ea : Addr) (crossed : Bool), i.mnemonic = mn →
    i.operand = .memory m → resolve m s = .ok (ea, crossed) → ¬ Backed s ea →
    Stops i (.outOfRange ea .read) s)

/-- A shift or rotate: its rows, its accumulator form (2 cycles), and its memory forms. -/
def ShiftClaim (mn : Mnemonic) (acc : Instr) (accOp : Byte) (rows : List Row) (out : Byte → Byte → Byte)
    (flags : Byte → Byte → Byte → Prop) : Prop :=
  Rows mn (⟨accOp, .accumulator, 2, false⟩ :: rows) ∧ encode acc = [accOp] ∧
  (∀ s : State, ∃ q, exec acc s = .next { passed acc 2 s with a := out s.a s.p, p := q } ∧ flags s.a s.p q) ∧
  ModifyClaim mn rows out flags

/-- A one-byte instruction of two cycles that completes in every state. -/
def ImpliedClaim (i : Instr) (op : Byte) (effect : State → State → Prop) : Prop :=
  encode i = [op] ∧ ∀ s : State, ∃ t, exec i s = .next t ∧ effect (passed i 2 s) t

/-- A branch on one flag's value: two bytes, 2 cycles not taken, 3 taken, 4 taken into another page. -/
def BranchClaim (mk : Byte → Instr) (op : Byte) (f : Flag) (on : Bool) : Prop :=
  ∀ (d : Byte) (s : State), encode (mk d) = [op, d] ∧
    (flag f s.p ≠ on → exec (mk d) s = .next (passed (mk d) 2 s)) ∧
    (flag f s.p = on →
      let after := s.pc + 2#16
      let target := BitVec.ofInt 16 ((after.toNat : Int) + d.toInt)
      exec (mk d) s = .next { passed (mk d) (3 + (decide (after.toNat / 256 ≠ target.toNat / 256)).toNat) s with
        pc := target })

/-- The 105 undefined opcode bytes (30_encoding.md R85). -/
def undefinedOpcodes : List Byte :=
  [0x02#8, 0x03#8, 0x04#8, 0x07#8, 0x0B#8, 0x0C#8, 0x0F#8, 0x12#8, 0x13#8, 0x14#8, 0x17#8, 0x1A#8,
   0x1B#8, 0x1C#8, 0x1F#8, 0x22#8, 0x23#8, 0x27#8, 0x2B#8, 0x2F#8, 0x32#8, 0x33#8, 0x34#8, 0x37#8,
   0x3A#8, 0x3B#8, 0x3C#8, 0x3F#8, 0x42#8, 0x43#8, 0x44#8, 0x47#8, 0x4B#8, 0x4F#8, 0x52#8, 0x53#8,
   0x54#8, 0x57#8, 0x5A#8, 0x5B#8, 0x5C#8, 0x5F#8, 0x62#8, 0x63#8, 0x64#8, 0x67#8, 0x6B#8, 0x6F#8,
   0x72#8, 0x73#8, 0x74#8, 0x77#8, 0x7A#8, 0x7B#8, 0x7C#8, 0x7F#8, 0x80#8, 0x82#8, 0x83#8, 0x87#8,
   0x89#8, 0x8B#8, 0x8F#8, 0x92#8, 0x93#8, 0x97#8, 0x9B#8, 0x9C#8, 0x9E#8, 0x9F#8, 0xA3#8, 0xA7#8,
   0xAB#8, 0xAF#8, 0xB2#8, 0xB3#8, 0xB7#8, 0xBB#8, 0xBF#8, 0xC2#8, 0xC3#8, 0xC7#8, 0xCB#8, 0xCF#8,
   0xD2#8, 0xD3#8, 0xD4#8, 0xD7#8, 0xDA#8, 0xDB#8, 0xDC#8, 0xDF#8, 0xE2#8, 0xE3#8, 0xE7#8, 0xEB#8,
   0xEF#8, 0xF2#8, 0xF3#8, 0xF4#8, 0xF7#8, 0xFA#8, 0xFB#8, 0xFC#8, 0xFF#8]

/-- The mnemonics whose instructions may change a flag of P (10_state.md R26 to R33). -/
def flagWriters : Flag → List Mnemonic
  | .c => [.adc, .sbc, .asl, .lsr, .rol, .ror, .cmp, .cpx, .cpy, .clc, .sec, .plp, .rti]
  | .z | .n =>
    [.lda, .ldx, .ldy, .adc, .sbc, .and, .ora, .eor, .asl, .lsr, .rol, .ror, .inc, .dec, .inx, .iny, .dex, .dey,
     .cmp, .cpx, .cpy, .bit, .pla, .tax, .tay, .txa, .tya, .tsx, .plp, .rti]
  | .i => [.sei, .cli, .brk, .plp, .rti]
  | .d => [.sed, .cld, .plp, .rti]
  | .b | .r => [.plp, .rti]
  | .v => [.adc, .sbc, .bit, .clv, .plp, .rti]

/-- The mnemonics whose instructions may change A (10_state.md R20). -/
def writersOfA : List Mnemonic :=
  [.lda, .adc, .sbc, .and, .ora, .eor, .asl, .lsr, .rol, .ror, .pla, .txa, .tya]

/-- The mnemonics whose instructions may change X (10_state.md R21). -/
def writersOfX : List Mnemonic := [.ldx, .inx, .dex, .tax, .tsx]

/-- The mnemonics whose instructions may change Y (10_state.md R22). -/
def writersOfY : List Mnemonic := [.ldy, .iny, .dey, .tay]

/-- The mnemonics whose instructions may change S (10_state.md R23). -/
def writersOfS : List Mnemonic := [.txs, .pha, .php, .pla, .plp, .jsr, .rts, .brk, .rti]

/-- The mnemonics whose instructions may change memory (20_memory.md R57). -/
def writersOfMemory : List Mnemonic :=
  [.sta, .stx, .sty, .asl, .lsr, .rol, .ror, .inc, .dec, .pha, .php, .jsr, .brk]

/-- The mnemonics whose instructions do more to PC than pass their own bytes (10_state.md R24). -/
def controlTransfers : List Mnemonic :=
  [.bcc, .bcs, .beq, .bne, .bmi, .bpl, .bvc, .bvs, .jmp, .jsr, .rts, .brk, .rti]

end Sys2Proof.Claims
end

