-- ==== Sys2Proof/Certificates/Slice0/Obligations.lean ====
section
/-! DEFINITION. The statements for the provers: what the instructions and the machine do, from the numbered rules of
spec/.  The vocabulary (`ReadClaim`, `passed`, `Stops`, `Stores` and the rest) is Sys2Proof/Safety.lean's. -/

open Sys2Proof Sys2Proof.Machine Sys2Proof.Claims

/-- For every state that meets the invariant (the image is in canonical form, its cells lie at 16-bit addresses
below MEM_SIZE, MEM_SIZE is at least 1), if step answers a next state then that state meets it, and if it stops with
a fault then the state the fault carries meets it. (20_memory.md R50 to R52; 00_scope.md R5, R10) -/
def Obligations.EveryStepKeepsStateInv : Prop :=
    ∀ (s : State), s.Inv →
    (∀ t, step s = .next t → t.Inv) ∧
    (∀ e t, step s = .fault (.raised e t) → t.Inv)

/-- The state after reset meets the invariant that every step keeps. Its empty image and its size are the model's
choices (log entries 3 and 4). (70_reset_and_hazards.md section 1; 00_scope.md section 3) -/
def Obligations.ResetMeetsStateInv : Prop :=
    State.reset.Inv

/-- After reset A, X and Y are 0x00, S is 0xFF, PC is 0x0000, P is 0x20, CYC is 0 and RUN is Running.
(70_reset_and_hazards.md section 1 (R370); 10_state.md R20 to R35) -/
def Obligations.ResetLeavesConstructionValues : Prop :=
    State.reset.a = 0x00#8 ∧ State.reset.x = 0x00#8 ∧ State.reset.y = 0x00#8 ∧ State.reset.sp = 0xFF#8 ∧
    State.reset.pc = 0x0000#16 ∧ State.reset.p = 0x20#8 ∧ State.reset.cyc = 0 ∧ State.reset.run = .running

/-- For every instruction of all 151 forms, at every value of its operand bytes, and whatever bytes follow, decoding
its encoding gives exactly that instruction and those bytes. (30_encoding.md R80 to R84) -/
def Obligations.DecodeOfEncodeIsTheInstruction : Prop :=
    ∀ (i : Instr) (rest : List Byte), i.wf = true → decode (encode i ++ rest) = .ok (i, rest)

/-- Whenever the decoder reads an instruction from some bytes and leaves a rest, the bytes are the encoding of that
instruction followed by the rest: no byte is dropped, and each byte string has one meaning. (30_encoding.md R80 to
R87) -/
def Obligations.EncodeOfDecodeIsTheBytes : Prop :=
    ∀ (bs : List Byte) (i : Instr) (rest : List Byte), decode bs = .ok (i, rest) → bs = encode i ++ rest

/-- The list of undefined bytes has 105 entries without repeats, and an opcode byte has no entry in the table
exactly if it is in the list. (30_encoding.md R85) -/
def Obligations.OnlyTheListedBytesAreUndefined : Prop :=
    undefinedOpcodes.length = 105 ∧ undefinedOpcodes.Nodup ∧ ∀ op : Byte, op ∈ undefinedOpcodes ↔ findRow op = none

/-- When the machine is ready to execute and the byte at PC is one of the 105 undefined bytes, the step stops with
IllegalOpcode of that byte and its address, PC one past it and nothing else changed but RUN. A step raises
IllegalOpcode in no other case, so every instruction of the table is legal in every state. (R331) -/
def Obligations.UndefinedOpcodeStopsTheStep : Prop :=
    (∀ (s : State) (op : Byte), Ready s → Memory.read s.mem s.pc.toNat = op → op ∈ undefinedOpcodes →
      step s = .fault (.raised (.illegalOpcode op s.pc)
        { s with pc := s.pc + 1#16, run := .faulted (.illegalOpcode op s.pc) })) ∧
    (∀ (s t : State) (op : Byte) (a : Addr), step s = .fault (.raised (.illegalOpcode op a) t) →
      Ready s ∧ a = s.pc ∧ Memory.read s.mem s.pc.toNat = op ∧ op ∈ undefinedOpcodes)

/-- The table has 151 rows, no two with the same opcode byte; every row pairs its mnemonic with a mode that the
instruction rules give it; every one of the 56 mnemonics has at least one such mode, and every such pair of a
mnemonic and a mode has a row. (30_encoding.md R83; the Encoding lines of 42_load_store.md to
49_flags_transfer_nop.md) -/
def Obligations.OpcodeTableIsUnambiguousAndLegal : Prop :=
    opcodeTable.length = 151 ∧ (opcodeTable.map (·.opcode)).Nodup ∧
    (∀ r ∈ opcodeTable, r.mode ∈ legalModes r.mnemonic) ∧
    (∀ mn : Mnemonic, legalModes mn ≠ []) ∧
    (∀ mn : Mnemonic, ∀ m ∈ legalModes mn, ∃ q ∈ opcodeTable, q.mnemonic = mn ∧ q.mode = m)

/-- Byte strings written out in the spec (assembler examples and instruction examples) decode to the instructions
they stand for, one or more of each format. (30_encoding.md R88; 95_test_vectors.md level 2) -/
def Obligations.SpecWordsDecodeAsWritten : Prop :=
    decode [0xE8#8] = .ok (.inx, []) ∧ decode [0x0A#8] = .ok (.aslAcc, []) ∧
    decode [0xA9#8, 0x10#8] = .ok (.ldaImm 0x10#8, []) ∧ decode [0xB6#8, 0x10#8] = .ok (.ldxZpY 0x10#8, []) ∧
    decode [0xBD#8, 0x34#8, 0x12#8] = .ok (.ldaAbsX 0x1234#16, []) ∧
    decode [0x6C#8, 0x34#8, 0x12#8] = .ok (.jmpInd 0x1234#16, []) ∧
    decode [0xA1#8, 0x10#8] = .ok (.ldaIndX 0x10#8, []) ∧ decode [0xB1#8, 0x10#8] = .ok (.ldaIndY 0x10#8, []) ∧
    decode [0xD0#8, 0xFB#8] = .ok (.bne 0xFB#8, []) ∧ decode [0x20#8, 0x00#8, 0x10#8] = .ok (.jsr 0x1000#16, []) ∧
    decode [0x00#8] = .ok (.brk, []) ∧ decode [0x02#8] = .error (.illegalOpcode 0x02#8)

/-- When the machine is ready to execute, the bytes at PC decode to an instruction and all of its bytes are backed,
the step is exactly the execution of that instruction in that state; the step adds nothing around it.
(40_sequencer.md R101, R103 to R106) -/
def Obligations.StepRunsTheDecodedInstruction : Prop :=
    ∀ (s : State) (i : Instr) (rest : List Byte), Ready s → i.wf = true →
    decode [Memory.read s.mem s.pc.toNat, Memory.read s.mem (s.pc + 1#16).toNat, Memory.read s.mem (s.pc + 2#16).toNat] =
      .ok (i, rest) →
    (∀ k < i.length, Backed s (s.pc + BitVec.ofNat 16 k)) →
    step s = exec i s

/-- When the machine is ready and an operand byte of the instruction at PC is not backed, the step stops with
OutOfRange of the first such byte, a read. PC stands at that byte, except in immediate mode, where PC has already
passed it; nothing else is changed but RUN. (41_address_resolver.md R121, R124; 60_exceptions.md R332) -/
def Obligations.MissingOperandByteStopsTheStep : Prop :=
    ∀ (s : State) (i : Instr), Ready s → i.opcode = Memory.read s.mem s.pc.toNat →
    (i.operand.mode = .immediate → ¬ Backed s (s.pc + 1#16) →
      step s = .fault (.raised (.outOfRange (s.pc + 1#16) .read)
        { s with pc := s.pc + 2#16, run := .faulted (.outOfRange (s.pc + 1#16) .read) })) ∧
    (i.operand.mode ≠ .immediate → 2 ≤ i.length → ¬ Backed s (s.pc + 1#16) →
      step s = .fault (.raised (.outOfRange (s.pc + 1#16) .read)
        { s with pc := s.pc + 1#16, run := .faulted (.outOfRange (s.pc + 1#16) .read) })) ∧
    (i.length = 3 → Backed s (s.pc + 1#16) → ¬ Backed s (s.pc + 2#16) →
      step s = .fault (.raised (.outOfRange (s.pc + 2#16) .read)
        { s with pc := s.pc + 2#16, run := .faulted (.outOfRange (s.pc + 2#16) .read) }))

/-- When RUN is Running and HALT_REQ is set, or BUDGET is a number not above STEPS, or PC is at or past MEM_SIZE,
the step answers the same state with RUN = Halted. When none of the three holds, a step that answers a next state
has completed an instruction. (40_sequencer.md R102, R100) -/
def Obligations.HaltConditionHaltsBeforeTheFetch : Prop :=
    ∀ (s : State), s.run = .running →
    ((s.haltReq = true ∨ (∃ n, s.budget = some n ∧ n ≤ s.steps) ∨ s.memSize ≤ s.pc.toNat) →
      step s = .next { s with run := .halted }) ∧
    (¬ (s.haltReq = true ∨ (∃ n, s.budget = some n ∧ n ≤ s.steps) ∨ s.memSize ≤ s.pc.toNat) →
      ∀ t, step s = .next t → t.run = .running ∧ t.steps = s.steps + 1)

/-- A step of a halted machine answers the same state; a step of a faulted machine reports the same record again
with the same state. The spec gives a step only while RUN is Running and speaks of the report at a run entry: what
step answers here is the model's choice (log entries 6 and 7, DEDUCED). (10_state.md R35; 40_sequencer.md R100,
R109) -/
def Obligations.TerminalStatesAreNotChangedByAStep : Prop :=
    (∀ s : State, s.run = .halted → step s = .next s) ∧
    (∀ (s : State) (e : FaultRecord), s.run = .faulted e → step s = .fault (.alreadyFaulted e s))

/-- Whatever the state, step never answers a refusal, and neither does exec of any instruction: every instruction of
the table has its effect or raises the fault the spec names. (60_exceptions.md R331, R344) -/
def Obligations.NoStepIsRefused : Prop :=
    (∀ (s : State) (r : Refusal), step s ≠ .refused r) ∧ (∀ (i : Instr) (s : State) (r : Refusal), exec i s ≠ .refused r)

/-- With MEM_SIZE at least 65536 every instruction of the table completes in every state, a step from Running either
answers a next state or stops with IllegalOpcode, and in every one of these states MEM_SIZE is what it was.
(60_exceptions.md R332; 20_memory.md R50) -/
def Obligations.ConformingImageNeverGoesOutOfRange : Prop :=
    ∀ (s : State), s.Conforming →
    (∀ i : Instr, ∃ t, exec i s = .next t ∧ t.memSize = s.memSize) ∧
    (s.run = .running → (∃ t, step s = .next t ∧ t.memSize = s.memSize) ∨
      ∃ op a t, step s = .fault (.raised (.illegalOpcode op a) t) ∧ t.memSize = s.memSize)

/-- When a step stops with a raised fault, the machine was Running, the record is IllegalOpcode or OutOfRange (never
InvalidWidth or IndexOutOfRange), and in the state it leaves RUN is Faulted with that record while CYC, STEPS,
MEM_SIZE, BUDGET, HALT_REQ, A, X and Y are unchanged, PC is 1 to 3 past where it was, memory is unchanged but for
JSR and BRK, S but for JSR, RTS, PLA, PLP, BRK and RTI, and P but for BRK and RTI; the address of an OutOfRange is
at or above MEM_SIZE. It is a frame over all instructions; the exact state of each fault is in the statement of the
instruction that raises it. (60_exceptions.md R333, R334, R335; 40_sequencer.md R107) -/
def Obligations.RaisedFaultLeavesItsFrame : Prop :=
    ∀ (s t : State) (e : FaultRecord), step s = .fault (.raised e t) →
    s.run = .running ∧ t.run = .faulted e ∧ t.cyc = s.cyc ∧ t.steps = s.steps ∧ t.memSize = s.memSize ∧
    t.budget = s.budget ∧ t.haltReq = s.haltReq ∧ t.a = s.a ∧ t.x = s.x ∧ t.y = s.y ∧
    (∃ k, 1 ≤ k ∧ k ≤ 3 ∧ t.pc = s.pc + BitVec.ofNat 16 k) ∧
    (Memory.read s.mem s.pc.toNat ∉ [0x20#8, 0x00#8] → t.mem = s.mem) ∧
    (Memory.read s.mem s.pc.toNat ∉ [0x20#8, 0x60#8, 0x68#8, 0x28#8, 0x00#8, 0x40#8] → t.sp = s.sp) ∧
    (Memory.read s.mem s.pc.toNat ∉ [0x00#8, 0x40#8] → t.p = s.p) ∧
    ((∃ op a, e = .illegalOpcode op a) ∨ (∃ a k, e = .outOfRange a k ∧ s.memSize ≤ a.toNat))

/-- When an instruction answers a next state, STEPS has grown by 1, CYC by at least 2 and at most 7, and RUN,
MEM_SIZE, BUDGET and HALT_REQ are unchanged. (40_sequencer.md R101, R107; 10_state.md R34, R36) -/
def Obligations.CompletedInstructionCountsOnce : Prop :=
    ∀ (i : Instr) (s t : State), exec i s = .next t →
    t.steps = s.steps + 1 ∧ s.cyc + 2 ≤ t.cyc ∧ t.cyc ≤ s.cyc + 7 ∧
    t.run = s.run ∧ t.memSize = s.memSize ∧ t.budget = s.budget ∧ t.haltReq = s.haltReq

/-- For every instruction and every flag: if the instruction is not among those the spec says write that flag, then
a next state has the flag as it was. So B and R change by PLP and RTI alone, D by SED, CLD, PLP and RTI alone.
(10_state.md R26 to R33) -/
def Obligations.FlagsChangeOnlyByTheirWriters : Prop :=
    ∀ (i : Instr) (s t : State) (f : Flag), exec i s = .next t → i.mnemonic ∉ flagWriters f →
    flag f t.p = flag f s.p

/-- For every instruction that answers a next state: A, X, Y, S and the memory image are unchanged unless the spec
lists the instruction among their writers, and PC has moved past the instruction unless it transfers control.
(10_state.md R20 to R24; 20_memory.md R57) -/
def Obligations.RegistersChangeOnlyByTheirWriters : Prop :=
    ∀ (i : Instr) (s t : State), exec i s = .next t →
    (i.mnemonic ∉ writersOfA → t.a = s.a) ∧ (i.mnemonic ∉ writersOfX → t.x = s.x) ∧
    (i.mnemonic ∉ writersOfY → t.y = s.y) ∧ (i.mnemonic ∉ writersOfS → t.sp = s.sp) ∧
    (i.mnemonic ∉ writersOfMemory → t.mem = s.mem) ∧
    (i.mnemonic ∉ controlTransfers → t.pc = s.pc + BitVec.ofNat 16 i.length)

/-- For each of the flags D, B and R: changing that flag before an instruction that neither writes it nor pushes P
changes nothing after it but that flag: the same outcome, the same registers, memory and cycles. So arithmetic is
binary whatever D holds. (10_state.md R29 to R31; 43_arith_logic.md R174) -/
def Obligations.UnreadFlagsDoNotInterfere : Prop :=
    ∀ (f : Flag) (i : Instr) (s : State) (on : Bool), f ∈ [Flag.d, Flag.b, Flag.r] →
    i.mnemonic ∉ flagWriters f → i.mnemonic ∉ [Mnemonic.php, Mnemonic.brk] →
    (∀ t, exec i s = .next t →
      exec i { s with p := setFlag f on s.p } = .next { t with p := setFlag f on t.p }) ∧
    (∀ e t, exec i s = .fault (.raised e t) →
      exec i { s with p := setFlag f on s.p } = .fault (.raised e { t with p := setFlag f on t.p }))

/-- In a canonical image, after a byte is written at an address, that address reads the byte and every other address
reads as before. (20_memory.md R52, R58) -/
def Obligations.MemoryReadAfterWrite : Prop :=
    ∀ (m : Memory) (a b : Nat) (v : Byte), Memory.wf m = true →
    Memory.read (Memory.write m a v) b = if b = a then v else Memory.read m b

/-- Two canonical images that read the same byte at every address are equal lists, so equality of states is equality
of what programs can observe. (20_memory.md R50, R58) -/
def Obligations.EqualReadsAreEqualMemories : Prop :=
    ∀ (m n : Memory), Memory.wf m = true → Memory.wf n = true →
    (∀ a, Memory.read m a = Memory.read n a) → m = n

/-- A read below MEM_SIZE returns the byte of the image and one at or above it raises OutOfRange of the address as a
read; a write below MEM_SIZE changes that byte of the image alone and one at or above it raises OutOfRange as a
write and writes nothing. (20_memory.md R51, R52) -/
def Obligations.MemoryPortChecksTheImageBound : Prop :=
    ∀ (s : State) (a : Addr) (v : Byte),
    (a.toNat < s.memSize → memRead a s = .ok (Memory.read s.mem a.toNat) ∧
      memWrite a v s = .ok { s with mem := Memory.write s.mem a.toNat v }) ∧
    (s.memSize ≤ a.toNat → memRead a s = .error (.outOfRange a .read) ∧
      memWrite a v s = .error (.raised (.outOfRange a .write) { s with run := .faulted (.outOfRange a .write) }))

/-- With both bytes backed, Read16 gives low + 256 * high with the high byte from the next address modulo 0x10000,
and ZpRead16 takes it from the next address modulo 0x100, in the zero page; when the low byte is not backed its
address is the one OutOfRange names, else the high byte's. That the low byte is read first and that the pointer's
high byte wraps in the zero page are the spec's own decisions D8 and D4 (log entry 17). (20_memory.md R53, R54;
92_eei_decisions.md D4, D8) -/
def Obligations.WordReadsAreLittleEndianAndWrap : Prop :=
    ∀ (s : State),
    (∀ a : Addr,
      let hi := (a.toNat + 1) % 65536
      (a.toNat < s.memSize → hi < s.memSize → ∃ w, read16 a s = .ok w ∧
        w.toNat = (Memory.read s.mem a.toNat).toNat + 256 * (Memory.read s.mem hi).toNat) ∧
      (s.memSize ≤ a.toNat → read16 a s = .error (.outOfRange a .read)) ∧
      (a.toNat < s.memSize → s.memSize ≤ hi → read16 a s = .error (.outOfRange (BitVec.ofNat 16 hi) .read))) ∧
    (∀ p : Byte,
      let hi := (p.toNat + 1) % 256
      (p.toNat < s.memSize → hi < s.memSize → ∃ w, zpRead16 p s = .ok w ∧
        w.toNat = (Memory.read s.mem p.toNat).toNat + 256 * (Memory.read s.mem hi).toNat) ∧
      (s.memSize ≤ p.toNat → zpRead16 p s = .error (.outOfRange (BitVec.ofNat 16 p.toNat) .read)) ∧
      (p.toNat < s.memSize → s.memSize ≤ hi → zpRead16 p s = .error (.outOfRange (BitVec.ofNat 16 hi) .read)))

/-- A push writes the byte at 0x0100 + S and leaves S one less modulo 256; a pull leaves S one more modulo 256 and
returns the byte at 0x0100 + that S. A push outside the image stops with S unchanged, a pull with S already
incremented. (R60) -/
def Obligations.PushAndPullKeepTheStackInPageOne : Prop :=
    ∀ (s : State) (v : Byte),
    let top := BitVec.ofNat 16 (256 + s.sp.toNat)
    let up := BitVec.ofNat 8 ((s.sp.toNat + 1) % 256)
    let slot := BitVec.ofNat 16 (256 + (s.sp.toNat + 1) % 256)
    (256 + s.sp.toNat < s.memSize → push v s = .ok { s with
      mem := Memory.write s.mem (256 + s.sp.toNat) v, sp := BitVec.ofNat 8 ((s.sp.toNat + 255) % 256) }) ∧
    (s.memSize ≤ 256 + s.sp.toNat → push v s =
      .error (.raised (.outOfRange top .write) { s with run := .faulted (.outOfRange top .write) })) ∧
    (slot.toNat < s.memSize → pull s = .ok (Memory.read s.mem slot.toNat, { s with sp := up })) ∧
    (s.memSize ≤ slot.toNat → pull s =
      .error (.raised (.outOfRange slot .read) { s with sp := up, run := .faulted (.outOfRange slot .read) }))

/-- Zero page is the operand byte; zero page,X and ,Y add the index modulo 256; absolute is the operand; absolute,X
and ,Y add the index modulo 65536 and report a page crossing exactly if the high bytes of base and result differ.
None of them raises. (41_address_resolver.md R125 to R130, R136) -/
def Obligations.DirectModesComputeTheirAddress : Prop :=
    ∀ (s : State) (b : Byte) (w : Addr),
    resolve (.zeroPage b) s = .ok (BitVec.ofNat 16 b.toNat, false) ∧
    resolve (.zeroPageX b) s = .ok (BitVec.ofNat 16 ((b.toNat + s.x.toNat) % 256), false) ∧
    resolve (.zeroPageY b) s = .ok (BitVec.ofNat 16 ((b.toNat + s.y.toNat) % 256), false) ∧
    resolve (.absolute w) s = .ok (w, false) ∧
    resolve (.absoluteX w) s = .ok (BitVec.ofNat 16 (w.toNat + s.x.toNat),
      decide (w.toNat / 256 ≠ (w.toNat + s.x.toNat) % 65536 / 256)) ∧
    resolve (.absoluteY w) s = .ok (BitVec.ofNat 16 (w.toNat + s.y.toNat),
      decide (w.toNat / 256 ≠ (w.toNat + s.y.toNat) % 65536 / 256))

/-- Under a conforming image, (zero page,X) gives the word at (operand + X) mod 256 and its successor mod 256, no
crossing; (zero page),Y gives the word at the operand and its successor mod 256, plus Y modulo 65536, crossing
exactly if the high bytes of the word and the sum differ. (41_address_resolver.md R132, R133, R136) -/
def Obligations.PointerModesReadTheirPointerInTheZeroPage : Prop :=
    ∀ (s : State) (b : Byte), s.Conforming →
    let byte := fun (n : Nat) => (Memory.read s.mem (n % 256)).toNat
    let px := b.toNat + s.x.toNat
    let base := byte b.toNat + 256 * byte (b.toNat + 1)
    resolve (.indexedIndirect b) s = .ok (BitVec.ofNat 16 (byte px + 256 * byte (px + 1)), false) ∧
    resolve (.indirectIndexed b) s = .ok (BitVec.ofNat 16 (base + s.y.toNat),
      decide (base / 256 ≠ (base + s.y.toNat) % 65536 / 256))

/-- For every 8-bit result and every P: N is set iff the result is 0x80 or more, Z iff it is 0, and every other flag
keeps its value. (R151) -/
def Obligations.SetNZWritesOnlyNAndZ : Prop :=
    ∀ (v p : Byte), NZ v (setNZ v p) ∧ OnlyFlags [.n, .z] p (setNZ v p)

/-- For all bytes a, b and carry in: the result is the sum modulo 256, C is set iff the sum is 256 or more, and V
iff the signed sum lies outside -128 to 127; and V is set iff a and b have the same sign and the result's sign
differs from theirs. (R170) -/
def Obligations.AdderCarryAndOverflowAreArithmetic : Prop :=
    ∀ (a b : Byte) (cin : Bool),
    (addCore a b cin).1.toNat = (a.toNat + b.toNat + cin.toNat) % 256 ∧
    (addCore a b cin).2.1 = decide (256 ≤ a.toNat + b.toNat + cin.toNat) ∧
    (addCore a b cin).2.2 =
      decide (a.toInt + b.toInt + (cin.toNat : Int) < -128 ∨ 127 < a.toInt + b.toInt + (cin.toNat : Int)) ∧
    ((addCore a b cin).2.2 = true ↔ a.msb = b.msb ∧ (addCore a b cin).1.msb ≠ a.msb)

/-- In each of their 18 forms, where the operand reads a byte the instruction completes: its register holds the
byte, N and Z are those of the byte, PC has passed the instruction, CYC has grown by the form's cost (one more where
the form has the page-crossing modifier and crossed) and nothing else changes; where the read raises OutOfRange the
instruction stops with nothing changed but PC. Opcode bytes and cycle figures are those of 30_encoding.md R83, which
the spec marks as general knowledge (log entries 1 and 2). (R155; R156; R157) -/
def Obligations.LoadsReadTheirOperand : Prop :=
    ReadClaim .lda (readRows 0xA9 0xA5 0xB5 0xAD 0xBD 0xB9 0xA1 0xB1)
      (fun v u t => t = { u with a := v, p := t.p } ∧ NZ v t.p ∧ OnlyFlags [.n, .z] u.p t.p) ∧
    ReadClaim .ldx [⟨0xA2, .immediate, 2, false⟩, ⟨0xA6, .zeroPage, 3, false⟩, ⟨0xB6, .zeroPageY, 4, false⟩,
        ⟨0xAE, .absolute, 4, false⟩, ⟨0xBE, .absoluteY, 4, true⟩]
      (fun v u t => t = { u with x := v, p := t.p } ∧ NZ v t.p ∧ OnlyFlags [.n, .z] u.p t.p) ∧
    ReadClaim .ldy [⟨0xA0, .immediate, 2, false⟩, ⟨0xA4, .zeroPage, 3, false⟩, ⟨0xB4, .zeroPageX, 4, false⟩,
        ⟨0xAC, .absolute, 4, false⟩, ⟨0xBC, .absoluteX, 4, true⟩]
      (fun v u t => t = { u with y := v, p := t.p } ∧ NZ v t.p ∧ OnlyFlags [.n, .z] u.p t.p)

/-- In each of their 13 forms, where the effective address is backed the instruction completes: that one byte of
memory is the register, every other byte, every register and every flag is unchanged, PC has passed the instruction
and CYC has grown by the fixed cost, page crossed or not; where it is not backed, or the pointer of one of the two
indirect forms of STA is not, the instruction stops with OutOfRange and nothing changed but PC. Opcode bytes and
cycle figures are those of 30_encoding.md R83, which the spec marks as general knowledge (log entries 1 and 2).
(R158; R159; R160) -/
def Obligations.StoresWriteTheirRegister : Prop :=
    StoreClaim .sta [⟨0x85, .zeroPage, 3, false⟩, ⟨0x95, .zeroPageX, 4, false⟩, ⟨0x8D, .absolute, 4, false⟩,
        ⟨0x9D, .absoluteX, 5, false⟩, ⟨0x99, .absoluteY, 5, false⟩, ⟨0x81, .indexedIndirect, 6, false⟩,
        ⟨0x91, .indirectIndexed, 6, false⟩] (fun s => s.a) ∧
    StoreClaim .stx [⟨0x86, .zeroPage, 3, false⟩, ⟨0x96, .zeroPageY, 4, false⟩, ⟨0x8E, .absolute, 4, false⟩]
      (fun s => s.x) ∧
    StoreClaim .sty [⟨0x84, .zeroPage, 3, false⟩, ⟨0x94, .zeroPageX, 4, false⟩, ⟨0x8C, .absolute, 4, false⟩]
      (fun s => s.y) ∧
    (∀ (i : Instr) (s : State) (m : MemOperand) (e : FaultRecord), i.mnemonic = .sta → i.operand = .memory m →
      resolve m s = .error e → Stops i e s)

/-- In each of its 8 forms, where the operand reads a byte, ADC completes: A is A + m + C modulo 256, C is set iff
the sum is 256 or more, V iff the signed sum is out of range, N and Z are those of the result, and nothing else
changes but PC, CYC and STEPS; where the read raises, nothing is changed but PC. D is not read. Opcode bytes and
cycle figures are those of 30_encoding.md R83, which the spec marks as general knowledge (log entries 1 and 2).
(R171) -/
def Obligations.AdcAddsWithCarry : Prop :=
    ReadClaim .adc (readRows 0x69 0x65 0x75 0x6D 0x7D 0x79 0x61 0x71)
      (fun m u t =>
        let sum := u.a.toNat + m.toNat + (flag .c u.p).toNat
        let signed := u.a.toInt + m.toInt + ((flag .c u.p).toNat : Int)
        t = { u with a := BitVec.ofNat 8 sum, p := t.p } ∧ NZ (BitVec.ofNat 8 sum) t.p ∧
        flag .c t.p = decide (256 ≤ sum) ∧ flag .v t.p = decide (signed < -128 ∨ 127 < signed) ∧
        OnlyFlags [.n, .z, .c, .v] u.p t.p)

/-- In each of its 8 forms, where the operand reads a byte, SBC completes: A is A - m - (1 - C) modulo 256, C is set
iff that difference is not negative, V iff the signed difference is out of range, N and Z are those of the result,
and nothing else changes but PC, CYC and STEPS; where the read raises, nothing is changed but PC. R172 states SBC as
AddCore(A, m ^ 0xFF, C); the difference form is the spec's own inference from R170, which R172 marks as derived.
Opcode bytes and cycle figures are those of 30_encoding.md R83, which the spec marks as general knowledge (log
entries 1 and 2). (43_arith_logic.md R170, R172) -/
def Obligations.SbcSubtractsWithBorrow : Prop :=
    ReadClaim .sbc (readRows 0xE9 0xE5 0xF5 0xED 0xFD 0xF9 0xE1 0xF1)
      (fun m u t =>
        let diff := (u.a.toNat : Int) - m.toNat - (1 - ((flag .c u.p).toNat : Int))
        let signed := u.a.toInt - m.toInt - (1 - ((flag .c u.p).toNat : Int))
        t = { u with a := BitVec.ofInt 8 diff, p := t.p } ∧ NZ (BitVec.ofInt 8 diff) t.p ∧
        flag .c t.p = decide (0 ≤ diff) ∧ flag .v t.p = decide (signed < -128 ∨ 127 < signed) ∧
        OnlyFlags [.n, .z, .c, .v] u.p t.p)

/-- In each of their 24 forms, where the operand reads a byte, the instruction completes: A is the bitwise and, or
or exclusive or of A and the byte, N and Z are those of the result, C and V and all else are unchanged but PC, CYC
and STEPS; where the read raises, nothing is changed but PC. Opcode bytes and cycle figures are those of
30_encoding.md R83, which the spec marks as general knowledge (log entries 1 and 2). (R175; R176; R177) -/
def Obligations.LogicCombinesWithA : Prop :=
    ReadClaim .and (readRows 0x29 0x25 0x35 0x2D 0x3D 0x39 0x21 0x31)
      (fun m u t => t = { u with a := u.a &&& m, p := t.p } ∧ NZ (u.a &&& m) t.p ∧ OnlyFlags [.n, .z] u.p t.p) ∧
    ReadClaim .ora (readRows 0x09 0x05 0x15 0x0D 0x1D 0x19 0x01 0x11)
      (fun m u t => t = { u with a := u.a ||| m, p := t.p } ∧ NZ (u.a ||| m) t.p ∧ OnlyFlags [.n, .z] u.p t.p) ∧
    ReadClaim .eor (readRows 0x49 0x45 0x55 0x4D 0x5D 0x59 0x41 0x51)
      (fun m u t => t = { u with a := u.a ^^^ m, p := t.p } ∧ NZ (u.a ^^^ m) t.p ∧ OnlyFlags [.n, .z] u.p t.p)

/-- In the accumulator form and in each memory form whose byte is backed, the instruction completes: the byte is
doubled modulo 256 and C is its old bit 7; N and Z are those of the result, V and every other flag are unchanged; in
the memory forms that one byte of memory changes and no register but PC; where the address is outside the image it
stops with OutOfRange, nothing changed but PC. Opcode bytes and cycle figures are those of 30_encoding.md R83, which
the spec marks as general knowledge (log entries 1 and 2). (R190) -/
def Obligations.AslShiftsLeft : Prop :=
    ShiftClaim .asl .aslAcc 0x0A (modifyRows 0x06 0x16 0x0E 0x1E)
      (fun v _ => BitVec.ofNat 8 (2 * v.toNat))
      (fun v p q => flag .c q = v.msb ∧
        NZ (BitVec.ofNat 8 (2 * v.toNat)) q ∧ OnlyFlags [.c, .n, .z] p q)

/-- In the accumulator form and in each memory form whose byte is backed, the instruction completes: the byte is
halved, C is its old bit 0 and N is 0; N and Z are those of the result, V and every other flag are unchanged; in the
memory forms that one byte of memory changes and no register but PC; where the address is outside the image it stops
with OutOfRange, nothing changed but PC. Opcode bytes and cycle figures are those of 30_encoding.md R83, which the
spec marks as general knowledge (log entries 1 and 2). (R191) -/
def Obligations.LsrShiftsRight : Prop :=
    ShiftClaim .lsr .lsrAcc 0x4A (modifyRows 0x46 0x56 0x4E 0x5E)
      (fun v _ => BitVec.ofNat 8 (v.toNat / 2))
      (fun v p q => flag .c q = decide (v.toNat % 2 = 1) ∧
        NZ (BitVec.ofNat 8 (v.toNat / 2)) q ∧ flag .n q = false ∧ OnlyFlags [.c, .n, .z] p q)

/-- In the accumulator form and in each memory form whose byte is backed, the instruction completes: the byte is
doubled modulo 256 with the old C in bit 0, and C is its old bit 7; N and Z are those of the result, V and every
other flag are unchanged; in the memory forms that one byte of memory changes and no register but PC; where the
address is outside the image it stops with OutOfRange, nothing changed but PC. Nine rotations with nothing else
return the byte and C to their start values. Opcode bytes and cycle figures are those of 30_encoding.md R83, which
the spec marks as general knowledge (log entries 1 and 2). (R192) -/
def Obligations.RolRotatesLeftThroughCarry : Prop :=
    ShiftClaim .rol .rolAcc 0x2A (modifyRows 0x26 0x36 0x2E 0x3E)
      (fun v p => BitVec.ofNat 8 (2 * v.toNat + (flag .c p).toNat))
      (fun v p q => flag .c q = v.msb ∧
        NZ (BitVec.ofNat 8 (2 * v.toNat + (flag .c p).toNat)) q ∧ OnlyFlags [.c, .n, .z] p q) ∧
    (∀ v p : Byte, ∃ q : Byte, Nat.repeat (fun x => shiftRol x.1 x.2) 9 (v, p) = (v, q) ∧ flag .c q = flag .c p)

/-- In the accumulator form and in each memory form whose byte is backed, the instruction completes: the byte is
halved with the old C in bit 7, C is its old bit 0 and N is the old C; N and Z are those of the result, V and every
other flag are unchanged; in the memory forms that one byte of memory changes and no register but PC; where the
address is outside the image it stops with OutOfRange, nothing changed but PC. Opcode bytes and cycle figures are
those of 30_encoding.md R83, which the spec marks as general knowledge (log entries 1 and 2). (R193) -/
def Obligations.RorRotatesRightThroughCarry : Prop :=
    ShiftClaim .ror .rorAcc 0x6A (modifyRows 0x66 0x76 0x6E 0x7E)
      (fun v p => BitVec.ofNat 8 (v.toNat / 2 + 128 * (flag .c p).toNat))
      (fun v p q => flag .c q = decide (v.toNat % 2 = 1) ∧
        NZ (BitVec.ofNat 8 (v.toNat / 2 + 128 * (flag .c p).toNat)) q ∧ flag .n q = flag .c p ∧ OnlyFlags [.c, .n, .z] p q)

/-- In each of their 8 forms whose byte is backed, the instruction completes: the byte is one more (INC) or one less
(DEC) modulo 256, N and Z are those of the result, C, V and every other flag, every register but PC and every other
byte are unchanged; where the address is outside the image it stops with OutOfRange, nothing changed but PC. Opcode
bytes and cycle figures are those of 30_encoding.md R83, which the spec marks as general knowledge (log entries 1
and 2). (R210; R211) -/
def Obligations.IncAndDecChangeMemoryByOne : Prop :=
    Rows .inc (modifyRows 0xE6 0xF6 0xEE 0xFE) ∧
    ModifyClaim .inc (modifyRows 0xE6 0xF6 0xEE 0xFE) (fun v _ => BitVec.ofNat 8 (v.toNat + 1))
      (fun v p q => NZ (BitVec.ofNat 8 (v.toNat + 1)) q ∧ OnlyFlags [.n, .z] p q) ∧
    Rows .dec (modifyRows 0xC6 0xD6 0xCE 0xDE) ∧
    ModifyClaim .dec (modifyRows 0xC6 0xD6 0xCE 0xDE) (fun v _ => BitVec.ofNat 8 (v.toNat + 255))
      (fun v p q => NZ (BitVec.ofNat 8 (v.toNat + 255)) q ∧ OnlyFlags [.n, .z] p q)

/-- Each completes in every state: X or Y is one more or one less modulo 256, N and Z are those of the result, and
nothing else changes but PC, CYC (by 2) and STEPS. Opcode bytes and cycle figures are those of 30_encoding.md R83,
which the spec marks as general knowledge (log entries 1 and 2). (R212; R213; R214; R215) -/
def Obligations.IndexRegistersStepByOne : Prop :=
    ImpliedClaim .inx 0xE8 (fun u t => t = { u with x := BitVec.ofNat 8 (u.x.toNat + 1), p := t.p } ∧
        NZ t.x t.p ∧ OnlyFlags [.n, .z] u.p t.p) ∧
    ImpliedClaim .iny 0xC8 (fun u t => t = { u with y := BitVec.ofNat 8 (u.y.toNat + 1), p := t.p } ∧
        NZ t.y t.p ∧ OnlyFlags [.n, .z] u.p t.p) ∧
    ImpliedClaim .dex 0xCA (fun u t => t = { u with x := BitVec.ofNat 8 (u.x.toNat + 255), p := t.p } ∧
        NZ t.x t.p ∧ OnlyFlags [.n, .z] u.p t.p) ∧
    ImpliedClaim .dey 0x88 (fun u t => t = { u with y := BitVec.ofNat 8 (u.y.toNat + 255), p := t.p } ∧
        NZ t.y t.p ∧ OnlyFlags [.n, .z] u.p t.p)

/-- In each of their 14 forms, where the operand reads a byte the instruction completes: C is set iff the register
is at least the byte (unsigned), Z iff they are equal, N is bit 7 of the 8-bit difference, V and every other flag,
every register but PC and memory are unchanged; where the read raises, nothing is changed but PC. Opcode bytes and
cycle figures are those of 30_encoding.md R83, which the spec marks as general knowledge (log entries 1 and 2).
(R230; R231; R232; R233) -/
def Obligations.ComparesSetCarryZeroAndSign : Prop :=
    ReadClaim .cmp (readRows 0xC9 0xC5 0xD5 0xCD 0xDD 0xD9 0xC1 0xD1)
      (fun m u t => t = { u with p := t.p } ∧ flag .c t.p = decide (m.toNat ≤ u.a.toNat) ∧
        flag .z t.p = decide (u.a = m) ∧ flag .n t.p = (u.a - m).msb ∧ OnlyFlags [.c, .z, .n] u.p t.p) ∧
    ReadClaim .cpx [⟨0xE0, .immediate, 2, false⟩, ⟨0xE4, .zeroPage, 3, false⟩, ⟨0xEC, .absolute, 4, false⟩]
      (fun m u t => t = { u with p := t.p } ∧ flag .c t.p = decide (m.toNat ≤ u.x.toNat) ∧
        flag .z t.p = decide (u.x = m) ∧ flag .n t.p = (u.x - m).msb ∧ OnlyFlags [.c, .z, .n] u.p t.p) ∧
    ReadClaim .cpy [⟨0xC0, .immediate, 2, false⟩, ⟨0xC4, .zeroPage, 3, false⟩, ⟨0xCC, .absolute, 4, false⟩]
      (fun m u t => t = { u with p := t.p } ∧ flag .c t.p = decide (m.toNat ≤ u.y.toNat) ∧
        flag .z t.p = decide (u.y = m) ∧ flag .n t.p = (u.y - m).msb ∧ OnlyFlags [.c, .z, .n] u.p t.p)

/-- In both of its forms, where the operand reads a byte BIT completes: Z is set iff A and the byte share no bit, N
is bit 7 and V bit 6 of the byte, and nothing else changes but PC, CYC and STEPS; where the read raises, nothing is
changed but PC. Opcode bytes and cycle figures are those of 30_encoding.md R83, which the spec marks as general
knowledge (log entries 1 and 2). (R234) -/
def Obligations.BitTestsTheOperand : Prop :=
    ReadClaim .bit [⟨0x24, .zeroPage, 3, false⟩, ⟨0x2C, .absolute, 4, false⟩]
      (fun m u t => t = { u with p := t.p } ∧ flag .z t.p = decide (u.a &&& m = 0) ∧
        flag .n t.p = m.getLsbD 7 ∧ flag .v t.p = m.getLsbD 6 ∧ OnlyFlags [.z, .n, .v] u.p t.p)

/-- Each of the eight branches completes in every state: not taken, PC has passed its two bytes and CYC grows by 2;
taken, PC is the address after it plus the signed offset modulo 65536 and CYC grows by 3, or 4 if that is in another
page than the address after it. No flag, register or memory changes. The cycle for every taken branch is the spec's
own decision D3 (R259, log entries 2 and 17). Opcode bytes and cycle figures are those of 30_encoding.md R83, which
the spec marks as general knowledge (log entries 1 and 2). (47_branch.md R250 to R259; 92_eei_decisions.md D3) -/
def Obligations.BranchesTestOneFlag : Prop :=
    BranchClaim .bcc 0x90 .c false ∧ BranchClaim .bcs 0xB0 .c true ∧ BranchClaim .beq 0xF0 .z true ∧
    BranchClaim .bne 0xD0 .z false ∧ BranchClaim .bmi 0x30 .n true ∧ BranchClaim .bpl 0x10 .n false ∧
    BranchClaim .bvc 0x50 .v false ∧ BranchClaim .bvs 0x70 .v true

/-- JMP absolute completes in every state with PC the operand and 3 cycles; JMP indirect, where both pointer bytes
are backed, completes with PC the word read at the pointer (the high byte from the next address modulo 65536, with
no page wrap) and 5 cycles, and stops with OutOfRange where the pointer read raises. Nothing else changes. Opcode
bytes and cycle figures are those of 30_encoding.md R83, which the spec marks as general knowledge (log entries 1
and 2). (48_jump_stack.md R272; 41_address_resolver.md R131) -/
def Obligations.JmpGoesToItsTarget : Prop :=
    ∀ (w : Addr) (s : State),
    encode (.jmpAbs w) = 0x4C#8 :: wordBytes w ∧ encode (.jmpInd w) = 0x6C#8 :: wordBytes w ∧
    exec (.jmpAbs w) s = .next { passed (.jmpAbs w) 3 s with pc := w } ∧
    (Backed s w → Backed s (w + 1#16) → exec (.jmpInd w) s = .next { passed (.jmpInd w) 5 s with
      pc := BitVec.ofNat 16 ((Memory.read s.mem w.toNat).toNat +
        256 * (Memory.read s.mem ((w.toNat + 1) % 65536)).toNat) }) ∧
    (¬ Backed s w → Stops (.jmpInd w) (.outOfRange w .read) s) ∧
    (Backed s w → ¬ Backed s (w + 1#16) → Stops (.jmpInd w) (.outOfRange (w + 1#16) .read) s)

/-- Where both stack slots are backed JSR completes: the high byte of its address + 2 is written at 0x0100 + S and
the low byte one slot below (modulo 256), S is two less, PC is the operand, CYC grows by 6, and no other byte,
register or flag changes. A fault on the first push changes nothing but PC; one on the second leaves S decremented
once and the high byte written. Opcode bytes and cycle figures are those of 30_encoding.md R83, which the spec marks
as general knowledge (log entries 1 and 2). (R274) -/
def Obligations.JsrPushesItsLastByteAddress : Prop :=
    ∀ (w : Addr) (s : State),
    let ret := s.pc + 2#16
    let hi := BitVec.ofNat 8 (ret.toNat / 256)
    let lo := BitVec.ofNat 8 (ret.toNat % 256)
    let one := Memory.write s.mem (stackAddr s.sp).toNat hi
    let two := Memory.write one (stackAddr (s.sp - 1#8)).toNat lo
    encode (.jsr w) = 0x20#8 :: wordBytes w ∧
    (Backed s (stackAddr s.sp) → Backed s (stackAddr (s.sp - 1#8)) →
      exec (.jsr w) s = .next { passed (.jsr w) 6 s with pc := w, sp := s.sp - 2#8, mem := two } ∧
      Stores s.mem two [((stackAddr (s.sp - 1#8)).toNat, lo), ((stackAddr s.sp).toNat, hi)]) ∧
    (¬ Backed s (stackAddr s.sp) → Stops (.jsr w) (.outOfRange (stackAddr s.sp) .write) s) ∧
    (Backed s (stackAddr s.sp) → ¬ Backed s (stackAddr (s.sp - 1#8)) →
      exec (.jsr w) s = .fault (.raised (.outOfRange (stackAddr (s.sp - 1#8)) .write)
        { stopped (.jsr w) (.outOfRange (stackAddr (s.sp - 1#8)) .write) s with sp := s.sp - 1#8, mem := one }))

/-- Where both stack slots are backed RTS completes: PC is the word at the next two slots (low byte first) plus 1
modulo 65536, S is two more, CYC grows by 6, nothing else changes. A fault on a pull leaves S incremented up to that
pull. Opcode bytes and cycle figures are those of 30_encoding.md R83, which the spec marks as general knowledge (log
entries 1 and 2). (R275) -/
def Obligations.RtsReturnsPastThePulledAddress : Prop :=
    ∀ s : State,
    let first := stackAddr (s.sp + 1#8)
    let second := stackAddr (s.sp + 2#8)
    encode .rts = [0x60#8] ∧
    (Backed s first → Backed s second → exec .rts s = .next { passed .rts 6 s with
      sp := s.sp + 2#8
      pc := BitVec.ofNat 16 ((Memory.read s.mem first.toNat).toNat + 256 * (Memory.read s.mem second.toNat).toNat + 1) }) ∧
    (¬ Backed s first → exec .rts s = .fault (.raised (.outOfRange first .read)
      { stopped .rts (.outOfRange first .read) s with sp := s.sp + 1#8 })) ∧
    (Backed s first → ¬ Backed s second → exec .rts s = .fault (.raised (.outOfRange second .read)
      { stopped .rts (.outOfRange second .read) s with sp := s.sp + 2#8 }))

/-- Where the stack slot is backed each completes: the byte (A, or P with bits 4 and 5 set) is written at 0x0100 +
S, S is one less, CYC grows by 3, and no other byte, no register and no flag changes: P itself is as it was. Where
the slot is not backed it stops with OutOfRange and S unchanged. That PHP leaves P itself as it was is the spec's
own decision D10 (log entry 17). Opcode bytes and cycle figures are those of 30_encoding.md R83, which the spec
marks as general knowledge (log entries 1 and 2). (48_jump_stack.md R276, R277; 92_eei_decisions.md D10) -/
def Obligations.PhaAndPhpPushOneByte : Prop :=
    ∀ s : State,
    let slot := stackAddr s.sp
    encode .pha = [0x48#8] ∧ encode .php = [0x08#8] ∧
    (Backed s slot →
      exec .pha s = .next { passed .pha 3 s with sp := s.sp - 1#8, mem := Memory.write s.mem slot.toNat s.a } ∧
      exec .php s = .next { passed .php 3 s with
        sp := s.sp - 1#8, mem := Memory.write s.mem slot.toNat (s.p ||| 0x30#8) } ∧
      Stores s.mem (Memory.write s.mem slot.toNat s.a) [(slot.toNat, s.a)] ∧
      Stores s.mem (Memory.write s.mem slot.toNat (s.p ||| 0x30#8)) [(slot.toNat, s.p ||| 0x30#8)]) ∧
    (¬ Backed s slot → Stops .pha (.outOfRange slot .write) s ∧ Stops .php (.outOfRange slot .write) s)

/-- Where the next stack slot is backed each completes: S is one more, PLA puts the byte there into A with N and Z
from it, PLP makes it P, all eight bits; CYC grows by 4 and nothing else changes. Where the slot is not backed it
stops with OutOfRange, S already incremented. Opcode bytes and cycle figures are those of 30_encoding.md R83, which
the spec marks as general knowledge (log entries 1 and 2). (48_jump_stack.md R278, R279) -/
def Obligations.PlaAndPlpPullOneByte : Prop :=
    ∀ s : State,
    let slot := stackAddr (s.sp + 1#8)
    let v := Memory.read s.mem slot.toNat
    encode .pla = [0x68#8] ∧ encode .plp = [0x28#8] ∧
    (Backed s slot →
      (∃ q, exec .pla s = .next { passed .pla 4 s with sp := s.sp + 1#8, a := v, p := q } ∧ NZ v q ∧
        OnlyFlags [.n, .z] s.p q) ∧
      exec .plp s = .next { passed .plp 4 s with sp := s.sp + 1#8, p := v }) ∧
    (¬ Backed s slot →
      exec .pla s = .fault (.raised (.outOfRange slot .read)
        { stopped .pla (.outOfRange slot .read) s with sp := s.sp + 1#8 }) ∧
      exec .plp s = .fault (.raised (.outOfRange slot .read)
        { stopped .plp (.outOfRange slot .read) s with sp := s.sp + 1#8 }))

/-- Where the three stack slots and the vector are backed BRK completes: the high and low bytes of its address + 1
and P with bits 4 and 5 set lie in the three slots downward from 0x0100 + S, S is three less, of P only I changes
and it is 1, PC is the word at 0xFFFE, CYC grows by 7, and no other byte or register changes. On a fault the pushes
already made stand, and so does the write of I when the vector read raises. The order of the two PC bytes, the
forced R bit of the pushed byte and B unchanged in P are the spec's own decisions D10 and D11 (log entry 17). Opcode
bytes and cycle figures are those of 30_encoding.md R83, which the spec marks as general knowledge (log entries 1
and 2). (48_jump_stack.md R280; 92_eei_decisions.md D10, D11) -/
def Obligations.BrkEntersItsHandler : Prop :=
    ∀ s : State,
    let ret := s.pc + 1#16
    let hi := BitVec.ofNat 8 (ret.toNat / 256)
    let lo := BitVec.ofNat 8 (ret.toNat % 256)
    let a1 := stackAddr s.sp
    let a2 := stackAddr (s.sp - 1#8)
    let a3 := stackAddr (s.sp - 2#8)
    let m1 := Memory.write s.mem a1.toNat hi
    let m2 := Memory.write m1 a2.toNat lo
    let m3 := Memory.write m2 a3.toNat (s.p ||| 0x30#8)
    encode .brk = [0x00#8] ∧
    Stores s.mem m3 [(a3.toNat, s.p ||| 0x30#8), (a2.toNat, lo), (a1.toNat, hi)] ∧
    (Backed s a1 → Backed s a2 → Backed s a3 → ∃ q, flag .i q = true ∧ OnlyFlags [.i] s.p q ∧
      (Backed s 0xFFFF#16 → exec .brk s = .next { passed .brk 7 s with
        sp := s.sp - 3#8, mem := m3, p := q
        pc := BitVec.ofNat 16 ((Memory.read m3 0xFFFE).toNat + 256 * (Memory.read m3 0xFFFF).toNat) }) ∧
      (¬ Backed s 0xFFFE#16 → exec .brk s = .fault (.raised (.outOfRange 0xFFFE#16 .read)
        { stopped .brk (.outOfRange 0xFFFE#16 .read) s with sp := s.sp - 3#8, mem := m3, p := q })) ∧
      (Backed s 0xFFFE#16 → ¬ Backed s 0xFFFF#16 → exec .brk s = .fault (.raised (.outOfRange 0xFFFF#16 .read)
        { stopped .brk (.outOfRange 0xFFFF#16 .read) s with sp := s.sp - 3#8, mem := m3, p := q }))) ∧
    (¬ Backed s a1 → Stops .brk (.outOfRange a1 .write) s) ∧
    (Backed s a1 → ¬ Backed s a2 → exec .brk s = .fault (.raised (.outOfRange a2 .write)
      { stopped .brk (.outOfRange a2 .write) s with sp := s.sp - 1#8, mem := m1 })) ∧
    (Backed s a1 → Backed s a2 → ¬ Backed s a3 → exec .brk s = .fault (.raised (.outOfRange a3 .write)
      { stopped .brk (.outOfRange a3 .write) s with sp := s.sp - 2#8, mem := m2 }))

/-- Where the next three stack slots are backed RTI completes: P is the first byte, all eight bits, PC the word of
the next two (low byte first) with no + 1, S is three more, CYC grows by 6, nothing else changes. A fault on a pull
leaves S incremented up to that pull and P pulled before it. Opcode bytes and cycle figures are those of
30_encoding.md R83, which the spec marks as general knowledge (log entries 1 and 2). (48_jump_stack.md R281;
60_exceptions.md R343) -/
def Obligations.RtiRestoresPThenPc : Prop :=
    ∀ s : State,
    let a1 := stackAddr (s.sp + 1#8)
    let a2 := stackAddr (s.sp + 2#8)
    let a3 := stackAddr (s.sp + 3#8)
    let q := Memory.read s.mem a1.toNat
    encode .rti = [0x40#8] ∧
    (Backed s a1 → Backed s a2 → Backed s a3 → exec .rti s = .next { passed .rti 6 s with
      sp := s.sp + 3#8, p := q
      pc := BitVec.ofNat 16 ((Memory.read s.mem a2.toNat).toNat + 256 * (Memory.read s.mem a3.toNat).toNat) }) ∧
    (¬ Backed s a1 → exec .rti s = .fault (.raised (.outOfRange a1 .read)
      { stopped .rti (.outOfRange a1 .read) s with sp := s.sp + 1#8 })) ∧
    (Backed s a1 → ¬ Backed s a2 → exec .rti s = .fault (.raised (.outOfRange a2 .read)
      { stopped .rti (.outOfRange a2 .read) s with sp := s.sp + 2#8, p := q })) ∧
    (Backed s a1 → Backed s a2 → ¬ Backed s a3 → exec .rti s = .fault (.raised (.outOfRange a3 .read)
      { stopped .rti (.outOfRange a3 .read) s with sp := s.sp + 3#8, p := q }))

/-- Each completes in every state: its flag is 0 or 1 as its name says, every other flag and every register but PC
and memory are unchanged, CYC grows by 2. Opcode bytes and cycle figures are those of 30_encoding.md R83, which the
spec marks as general knowledge (log entries 1 and 2). (R300; R301; R302; R303; R304; R305; R306) -/
def Obligations.FlagInstructionsWriteOneFlag : Prop :=
    ImpliedClaim .clc 0x18 (fun u t => t = { u with p := t.p } ∧ flag .c t.p = false ∧ OnlyFlags [.c] u.p t.p) ∧
    ImpliedClaim .cld 0xD8 (fun u t => t = { u with p := t.p } ∧ flag .d t.p = false ∧ OnlyFlags [.d] u.p t.p) ∧
    ImpliedClaim .cli 0x58 (fun u t => t = { u with p := t.p } ∧ flag .i t.p = false ∧ OnlyFlags [.i] u.p t.p) ∧
    ImpliedClaim .clv 0xB8 (fun u t => t = { u with p := t.p } ∧ flag .v t.p = false ∧ OnlyFlags [.v] u.p t.p) ∧
    ImpliedClaim .sec 0x38 (fun u t => t = { u with p := t.p } ∧ flag .c t.p = true ∧ OnlyFlags [.c] u.p t.p) ∧
    ImpliedClaim .sed 0xF8 (fun u t => t = { u with p := t.p } ∧ flag .d t.p = true ∧ OnlyFlags [.d] u.p t.p) ∧
    ImpliedClaim .sei 0x78 (fun u t => t = { u with p := t.p } ∧ flag .i t.p = true ∧ OnlyFlags [.i] u.p t.p)

/-- Each completes in every state: the destination holds the source, N and Z are those of the value except for TXS,
which changes no flag; the source and everything else are unchanged but PC, CYC (by 2) and STEPS. Opcode bytes and
cycle figures are those of 30_encoding.md R83, which the spec marks as general knowledge (log entries 1 and 2).
(R307; R308; R309; R310; R311; R312) -/
def Obligations.TransfersCopyARegister : Prop :=
    ImpliedClaim .tax 0xAA (fun u t => t = { u with x := u.a, p := t.p } ∧
      NZ u.a t.p ∧ OnlyFlags [.n, .z] u.p t.p) ∧
    ImpliedClaim .tay 0xA8 (fun u t => t = { u with y := u.a, p := t.p } ∧
      NZ u.a t.p ∧ OnlyFlags [.n, .z] u.p t.p) ∧
    ImpliedClaim .txa 0x8A (fun u t => t = { u with a := u.x, p := t.p } ∧
      NZ u.x t.p ∧ OnlyFlags [.n, .z] u.p t.p) ∧
    ImpliedClaim .tya 0x98 (fun u t => t = { u with a := u.y, p := t.p } ∧
      NZ u.y t.p ∧ OnlyFlags [.n, .z] u.p t.p) ∧
    ImpliedClaim .tsx 0xBA (fun u t => t = { u with x := u.sp, p := t.p } ∧
      NZ u.sp t.p ∧ OnlyFlags [.n, .z] u.p t.p) ∧
    ImpliedClaim .txs 0x9A (fun u t => t = { u with sp := u.x })

/-- NOP completes in every state with PC one more, CYC two more, STEPS one more and every register, flag and byte of
memory as it was. Opcode bytes and cycle figures are those of 30_encoding.md R83, which the spec marks as general
knowledge (log entries 1 and 2). (R313) -/
def Obligations.NopChangesNothingElse : Prop :=
    ImpliedClaim .nop 0xEA (fun u t => t = u)

/-- In a canonical image with both stack slots backed, after JSR answers a state, RTS in any state with that stack
pointer and memory answers one whose PC is the JSR's address + 3 and whose S is as it was before the JSR.
(48_jump_stack.md R275 (corner cases); 95_test_vectors.md E7) -/
def Obligations.JsrThenRtsReturns : Prop :=
    ∀ (w : Addr) (s t u : State), Memory.wf s.mem = true → exec (.jsr w) s = .next t →
    u.mem = t.mem → u.sp = t.sp → u.memSize = t.memSize →
    ∃ v, exec .rts u = .next v ∧ v.pc = s.pc + 3#16 ∧ v.sp = s.sp

/-- In a canonical image, after BRK answers a state, RTI in any state with that stack pointer and memory answers one
whose PC is the BRK's address + 1, whose S is as before the BRK, and whose P is P before it with B and R set. The
bits of the pushed byte and the order of the pushes are the spec's own decisions D10 and D11 (log entry 17).
(48_jump_stack.md R281 (corner cases); 90_conflicts.md C2) -/
def Obligations.BrkThenRtiReturns : Prop :=
    ∀ (s t u : State), Memory.wf s.mem = true → exec .brk s = .next t →
    u.mem = t.mem → u.sp = t.sp → u.memSize = t.memSize →
    ∃ v, exec .rti u = .next v ∧ v.pc = s.pc + 1#16 ∧ v.sp = s.sp ∧ v.p = s.p ||| 0x30#8

/-- In a canonical image, after PHP answers a state, PLP in any state with that stack pointer and memory restores S
and gives P as it was with B = 1 and R = 1 whatever they were. That R and B stay as pulled is the spec's own
decision D19 (log entry 17). (48_jump_stack.md R279 (corner cases)) -/
def Obligations.PhpThenPlpRestoresP : Prop :=
    ∀ (s t u : State), Memory.wf s.mem = true → exec .php s = .next t →
    u.mem = t.mem → u.sp = t.sp → u.memSize = t.memSize →
    ∃ v, exec .plp u = .next v ∧ v.sp = s.sp ∧ flag .b v.p = true ∧ flag .r v.p = true ∧
      OnlyFlags [.b, .r] s.p v.p

/-- On a machine that is not faulted: IRQ with I = 1 is not taken; otherwise, where the three stack slots and the
vector are backed, the acknowledge is taken: PC high and low and P with B cleared and R set lie in the three slots,
S is three less, of P only I changes and it is 1, PC is the word at 0xFFFA (NMI, whatever I) or 0xFFFE (IRQ), CYC
grows by 7, and RUN, STEPS, every other register and every other byte are unchanged. The sequence, the mask and the
7 cycles are the spec's own decision D12 (log entry 17). (60_exceptions.md R338, R339, R340; 92_eei_decisions.md
D12) -/
def Obligations.AcknowledgeEntersTheVector : Prop :=
    ∀ (k : InterruptKind) (s : State), (∀ e, s.run ≠ .faulted e) →
    let hi := BitVec.ofNat 8 (s.pc.toNat / 256)
    let lo := BitVec.ofNat 8 (s.pc.toNat % 256)
    let a1 := stackAddr s.sp
    let a2 := stackAddr (s.sp - 1#8)
    let a3 := stackAddr (s.sp - 2#8)
    let status := (s.p &&& 0xEF#8) ||| 0x20#8
    let m3 := Memory.write (Memory.write (Memory.write s.mem a1.toNat hi) a2.toNat lo) a3.toNat status
    let vec := match k with | .nmi => 0xFFFA | .irq => 0xFFFE
    (k = .irq → flag .i s.p = true → acknowledge k s = .notTaken) ∧
    (k = .nmi ∨ flag .i s.p = false → Backed s a1 → Backed s a2 → Backed s a3 → vec + 1 < s.memSize →
      ∃ q, flag .i q = true ∧ OnlyFlags [.i] s.p q ∧ acknowledge k s = .taken { s with
        sp := s.sp - 3#8, mem := m3, p := q, cyc := s.cyc + 7
        pc := BitVec.ofNat 16 ((Memory.read m3 vec).toNat + 256 * (Memory.read m3 (vec + 1)).toNat) }) ∧
    Stores s.mem m3 [(a3.toNat, status), (a2.toNat, lo), (a1.toNat, hi)]

/-- On a machine that is not faulted, an acknowledge that is not masked stops with OutOfRange of the first stack
slot that is not backed (a write) or, when all three are backed, of the first byte of its vector that is not (a
read); the pushes already made stand, and so does the write of I when the vector read raises; CYC, STEPS, PC and
every other register are unchanged. The sequence is the spec's own decision D12 (log entry 17). (60_exceptions.md
R338, R334) -/
def Obligations.AcknowledgeOutsideTheImageFaults : Prop :=
    ∀ (k : InterruptKind) (s : State), (∀ e, s.run ≠ .faulted e) → k = .nmi ∨ flag .i s.p = false →
    let a1 := stackAddr s.sp
    let a2 := stackAddr (s.sp - 1#8)
    let a3 := stackAddr (s.sp - 2#8)
    let m1 := Memory.write s.mem a1.toNat (BitVec.ofNat 8 (s.pc.toNat / 256))
    let m2 := Memory.write m1 a2.toNat (BitVec.ofNat 8 (s.pc.toNat % 256))
    let m3 := Memory.write m2 a3.toNat ((s.p &&& 0xEF#8) ||| 0x20#8)
    let vec : Addr := match k with | .nmi => 0xFFFA#16 | .irq => 0xFFFE#16
    let stops := fun (e : FaultRecord) (t : State) => acknowledge k s = .fault (.raised e { t with run := .faulted e })
    (¬ Backed s a1 → stops (.outOfRange a1 .write) s) ∧
    (Backed s a1 → ¬ Backed s a2 → stops (.outOfRange a2 .write) { s with sp := s.sp - 1#8, mem := m1 }) ∧
    (Backed s a1 → Backed s a2 → ¬ Backed s a3 →
      stops (.outOfRange a3 .write) { s with sp := s.sp - 2#8, mem := m2 }) ∧
    (Backed s a1 → Backed s a2 → Backed s a3 → ∃ q, flag .i q = true ∧ OnlyFlags [.i] s.p q ∧
      (¬ Backed s vec → stops (.outOfRange vec .read) { s with sp := s.sp - 3#8, mem := m3, p := q }) ∧
      (Backed s vec → ¬ Backed s (vec + 1#16) →
        stops (.outOfRange (vec + 1#16) .read) { s with sp := s.sp - 3#8, mem := m3, p := q }))

/-- In a canonical image, after an acknowledge is taken, RTI in any state with that stack pointer and memory answers
one whose PC and S are the interrupted ones and whose P is the interrupted P with B cleared and R set, so that I is
as it was. What the acknowledge pushes is the spec's own decision D12 (log entry 17). (60_exceptions.md R343;
90_conflicts.md C8) -/
def Obligations.AcknowledgeThenRtiReturns : Prop :=
    ∀ (k : InterruptKind) (s t u : State), Memory.wf s.mem = true → acknowledge k s = .taken t →
    u.mem = t.mem → u.sp = t.sp → u.memSize = t.memSize →
    ∃ v, exec .rti u = .next v ∧ v.pc = s.pc ∧ v.sp = s.sp ∧ v.p = (s.p &&& 0xEF#8) ||| 0x20#8

/-- From a machine that is not faulted, RunAtMost(N) ends Halted with STEPS at most N, or with a raised fault;
RunAtMost(0) changes nothing but RUN, STEPS and BUDGET; from a faulted machine it reports the record again and
changes nothing, as the spec's own decision D21 has it (log entry 17). (40_sequencer.md R109, R110) -/
def Obligations.RunAtMostEndsWithinItsBudget : Prop :=
    ∀ (n : Nat) (s : State),
    (∀ e, s.run = .faulted e → runAtMost n s = .fault (.alreadyFaulted e s)) ∧
    ((∀ e, s.run ≠ .faulted e) →
      ((∃ t, runAtMost n s = .next t ∧ t.run = .halted ∧ t.steps ≤ n) ∨
        ∃ e t, runAtMost n s = .fault (.raised e t) ∧ t.run = .faulted e) ∧
      runAtMost 0 s = .next { s with run := .halted, steps := 0, budget := some 0 })
end

