-- ==== Sys2Proof/Laws/Flags.lean ====
section
/-! SUPPORT. The flags of a status byte: reading one after writing one, and what the pushed copies of P hold. -/
namespace Sys2Proof.Machine

@[simp] theorem flag_setFlag_same (f : Flag) (on : Bool) (p : Byte) : flag f (setFlag f on p) = on := by
  cases f <;> cases on <;> simp [flag, setFlag, Flag.mask, Flag.bit]

theorem flag_setFlag_ne {f g : Flag} (h : f ≠ g) (on : Bool) (p : Byte) : flag f (setFlag g on p) = flag f p := by
  cases f <;> cases g <;> first | exact absurd rfl h | (cases on <;> simp [flag, setFlag, Flag.mask, Flag.bit])

/-- A flag after a write of one flag. -/
theorem flag_setFlag (f g : Flag) (on : Bool) (p : Byte) :
    flag f (setFlag g on p) = if f = g then on else flag f p := by
  split
  · next h => rw [h, flag_setFlag_same]
  · next h => exact flag_setFlag_ne h on p

/-- Two status bytes with the same flags are equal. -/
theorem eq_of_flags {p q : Byte} (h : ∀ f, flag f p = flag f q) : p = q := by
  apply BitVec.eq_of_getLsbD_eq
  intro k hk
  have := h .c; have := h .z; have := h .i; have := h .d; have := h .b; have := h .r; have := h .v; have := h .n
  simp only [flag, Flag.bit] at *
  interval_cases k <;> assumption

/-- Writes of two different flags commute. -/
theorem setFlag_comm {f g : Flag} (h : f ≠ g) (a b : Bool) (p : Byte) :
    setFlag f a (setFlag g b p) = setFlag g b (setFlag f a p) := by
  apply eq_of_flags
  intro k
  simp only [flag_setFlag]
  split <;> split <;> simp_all

theorem flag_setNZ (f : Flag) (v p : Byte) :
    flag f (setNZ v p) = if f = .z then v == 0#8 else if f = .n then v.getLsbD 7 else flag f p := by
  simp [setNZ, flag_setFlag]

theorem flag_pushedByBreak (f : Flag) (p : Byte) :
    flag f (pushedByBreak p) = (decide (f = .b ∨ f = .r) || flag f p) := by
  cases f <;> simp [flag, pushedByBreak, Flag.bit]

theorem flag_pushedByInterrupt (f : Flag) (p : Byte) :
    flag f (pushedByInterrupt p) = (decide (f = .r) || (decide (f ≠ .b) && flag f p)) := by
  cases f <;> simp [flag, pushedByInterrupt, Flag.bit]

end Sys2Proof.Machine
end

