-- ==== Sys2Proof/Laws/State.lean ====
section
/-! SUPPORT. Each field of the state after each register write and step operation. -/
namespace Sys2Proof.Machine

variable (s : State)

@[simp] theorem State.setA_a (v : Byte) : (s.setA v).a = v := rfl
@[simp] theorem State.setA_x (v : Byte) : (s.setA v).x = s.x := rfl
@[simp] theorem State.setA_y (v : Byte) : (s.setA v).y = s.y := rfl
@[simp] theorem State.setA_sp (v : Byte) : (s.setA v).sp = s.sp := rfl
@[simp] theorem State.setA_pc (v : Byte) : (s.setA v).pc = s.pc := rfl
@[simp] theorem State.setA_p (v : Byte) : (s.setA v).p = s.p := rfl
@[simp] theorem State.setA_cyc (v : Byte) : (s.setA v).cyc = s.cyc := rfl
@[simp] theorem State.setA_run (v : Byte) : (s.setA v).run = s.run := rfl
@[simp] theorem State.setA_mem (v : Byte) : (s.setA v).mem = s.mem := rfl
@[simp] theorem State.setA_memSize (v : Byte) : (s.setA v).memSize = s.memSize := rfl
@[simp] theorem State.setA_steps (v : Byte) : (s.setA v).steps = s.steps := rfl
@[simp] theorem State.setA_budget (v : Byte) : (s.setA v).budget = s.budget := rfl
@[simp] theorem State.setA_haltReq (v : Byte) : (s.setA v).haltReq = s.haltReq := rfl

@[simp] theorem State.setX_a (v : Byte) : (s.setX v).a = s.a := rfl
@[simp] theorem State.setX_x (v : Byte) : (s.setX v).x = v := rfl
@[simp] theorem State.setX_y (v : Byte) : (s.setX v).y = s.y := rfl
@[simp] theorem State.setX_sp (v : Byte) : (s.setX v).sp = s.sp := rfl
@[simp] theorem State.setX_pc (v : Byte) : (s.setX v).pc = s.pc := rfl
@[simp] theorem State.setX_p (v : Byte) : (s.setX v).p = s.p := rfl
@[simp] theorem State.setX_cyc (v : Byte) : (s.setX v).cyc = s.cyc := rfl
@[simp] theorem State.setX_run (v : Byte) : (s.setX v).run = s.run := rfl
@[simp] theorem State.setX_mem (v : Byte) : (s.setX v).mem = s.mem := rfl
@[simp] theorem State.setX_memSize (v : Byte) : (s.setX v).memSize = s.memSize := rfl
@[simp] theorem State.setX_steps (v : Byte) : (s.setX v).steps = s.steps := rfl
@[simp] theorem State.setX_budget (v : Byte) : (s.setX v).budget = s.budget := rfl
@[simp] theorem State.setX_haltReq (v : Byte) : (s.setX v).haltReq = s.haltReq := rfl

@[simp] theorem State.setY_a (v : Byte) : (s.setY v).a = s.a := rfl
@[simp] theorem State.setY_x (v : Byte) : (s.setY v).x = s.x := rfl
@[simp] theorem State.setY_y (v : Byte) : (s.setY v).y = v := rfl
@[simp] theorem State.setY_sp (v : Byte) : (s.setY v).sp = s.sp := rfl
@[simp] theorem State.setY_pc (v : Byte) : (s.setY v).pc = s.pc := rfl
@[simp] theorem State.setY_p (v : Byte) : (s.setY v).p = s.p := rfl
@[simp] theorem State.setY_cyc (v : Byte) : (s.setY v).cyc = s.cyc := rfl
@[simp] theorem State.setY_run (v : Byte) : (s.setY v).run = s.run := rfl
@[simp] theorem State.setY_mem (v : Byte) : (s.setY v).mem = s.mem := rfl
@[simp] theorem State.setY_memSize (v : Byte) : (s.setY v).memSize = s.memSize := rfl
@[simp] theorem State.setY_steps (v : Byte) : (s.setY v).steps = s.steps := rfl
@[simp] theorem State.setY_budget (v : Byte) : (s.setY v).budget = s.budget := rfl
@[simp] theorem State.setY_haltReq (v : Byte) : (s.setY v).haltReq = s.haltReq := rfl

@[simp] theorem State.setSp_a (v : Byte) : (s.setSp v).a = s.a := rfl
@[simp] theorem State.setSp_x (v : Byte) : (s.setSp v).x = s.x := rfl
@[simp] theorem State.setSp_y (v : Byte) : (s.setSp v).y = s.y := rfl
@[simp] theorem State.setSp_sp (v : Byte) : (s.setSp v).sp = v := rfl
@[simp] theorem State.setSp_pc (v : Byte) : (s.setSp v).pc = s.pc := rfl
@[simp] theorem State.setSp_p (v : Byte) : (s.setSp v).p = s.p := rfl
@[simp] theorem State.setSp_cyc (v : Byte) : (s.setSp v).cyc = s.cyc := rfl
@[simp] theorem State.setSp_run (v : Byte) : (s.setSp v).run = s.run := rfl
@[simp] theorem State.setSp_mem (v : Byte) : (s.setSp v).mem = s.mem := rfl
@[simp] theorem State.setSp_memSize (v : Byte) : (s.setSp v).memSize = s.memSize := rfl
@[simp] theorem State.setSp_steps (v : Byte) : (s.setSp v).steps = s.steps := rfl
@[simp] theorem State.setSp_budget (v : Byte) : (s.setSp v).budget = s.budget := rfl
@[simp] theorem State.setSp_haltReq (v : Byte) : (s.setSp v).haltReq = s.haltReq := rfl

@[simp] theorem State.setPc_a (v : Addr) : (s.setPc v).a = s.a := rfl
@[simp] theorem State.setPc_x (v : Addr) : (s.setPc v).x = s.x := rfl
@[simp] theorem State.setPc_y (v : Addr) : (s.setPc v).y = s.y := rfl
@[simp] theorem State.setPc_sp (v : Addr) : (s.setPc v).sp = s.sp := rfl
@[simp] theorem State.setPc_pc (v : Addr) : (s.setPc v).pc = v := rfl
@[simp] theorem State.setPc_p (v : Addr) : (s.setPc v).p = s.p := rfl
@[simp] theorem State.setPc_cyc (v : Addr) : (s.setPc v).cyc = s.cyc := rfl
@[simp] theorem State.setPc_run (v : Addr) : (s.setPc v).run = s.run := rfl
@[simp] theorem State.setPc_mem (v : Addr) : (s.setPc v).mem = s.mem := rfl
@[simp] theorem State.setPc_memSize (v : Addr) : (s.setPc v).memSize = s.memSize := rfl
@[simp] theorem State.setPc_steps (v : Addr) : (s.setPc v).steps = s.steps := rfl
@[simp] theorem State.setPc_budget (v : Addr) : (s.setPc v).budget = s.budget := rfl
@[simp] theorem State.setPc_haltReq (v : Addr) : (s.setPc v).haltReq = s.haltReq := rfl

@[simp] theorem State.setP_a (v : Byte) : (s.setP v).a = s.a := rfl
@[simp] theorem State.setP_x (v : Byte) : (s.setP v).x = s.x := rfl
@[simp] theorem State.setP_y (v : Byte) : (s.setP v).y = s.y := rfl
@[simp] theorem State.setP_sp (v : Byte) : (s.setP v).sp = s.sp := rfl
@[simp] theorem State.setP_pc (v : Byte) : (s.setP v).pc = s.pc := rfl
@[simp] theorem State.setP_p (v : Byte) : (s.setP v).p = v := rfl
@[simp] theorem State.setP_cyc (v : Byte) : (s.setP v).cyc = s.cyc := rfl
@[simp] theorem State.setP_run (v : Byte) : (s.setP v).run = s.run := rfl
@[simp] theorem State.setP_mem (v : Byte) : (s.setP v).mem = s.mem := rfl
@[simp] theorem State.setP_memSize (v : Byte) : (s.setP v).memSize = s.memSize := rfl
@[simp] theorem State.setP_steps (v : Byte) : (s.setP v).steps = s.steps := rfl
@[simp] theorem State.setP_budget (v : Byte) : (s.setP v).budget = s.budget := rfl
@[simp] theorem State.setP_haltReq (v : Byte) : (s.setP v).haltReq = s.haltReq := rfl

@[simp] theorem State.setMem_a (m : Memory) : (s.setMem m).a = s.a := rfl
@[simp] theorem State.setMem_x (m : Memory) : (s.setMem m).x = s.x := rfl
@[simp] theorem State.setMem_y (m : Memory) : (s.setMem m).y = s.y := rfl
@[simp] theorem State.setMem_sp (m : Memory) : (s.setMem m).sp = s.sp := rfl
@[simp] theorem State.setMem_pc (m : Memory) : (s.setMem m).pc = s.pc := rfl
@[simp] theorem State.setMem_p (m : Memory) : (s.setMem m).p = s.p := rfl
@[simp] theorem State.setMem_cyc (m : Memory) : (s.setMem m).cyc = s.cyc := rfl
@[simp] theorem State.setMem_run (m : Memory) : (s.setMem m).run = s.run := rfl
@[simp] theorem State.setMem_mem (m : Memory) : (s.setMem m).mem = m := rfl
@[simp] theorem State.setMem_memSize (m : Memory) : (s.setMem m).memSize = s.memSize := rfl
@[simp] theorem State.setMem_steps (m : Memory) : (s.setMem m).steps = s.steps := rfl
@[simp] theorem State.setMem_budget (m : Memory) : (s.setMem m).budget = s.budget := rfl
@[simp] theorem State.setMem_haltReq (m : Memory) : (s.setMem m).haltReq = s.haltReq := rfl

@[simp] theorem State.setRun_a (r : RunStatus) : (s.setRun r).a = s.a := rfl
@[simp] theorem State.setRun_x (r : RunStatus) : (s.setRun r).x = s.x := rfl
@[simp] theorem State.setRun_y (r : RunStatus) : (s.setRun r).y = s.y := rfl
@[simp] theorem State.setRun_sp (r : RunStatus) : (s.setRun r).sp = s.sp := rfl
@[simp] theorem State.setRun_pc (r : RunStatus) : (s.setRun r).pc = s.pc := rfl
@[simp] theorem State.setRun_p (r : RunStatus) : (s.setRun r).p = s.p := rfl
@[simp] theorem State.setRun_cyc (r : RunStatus) : (s.setRun r).cyc = s.cyc := rfl
@[simp] theorem State.setRun_run (r : RunStatus) : (s.setRun r).run = r := rfl
@[simp] theorem State.setRun_mem (r : RunStatus) : (s.setRun r).mem = s.mem := rfl
@[simp] theorem State.setRun_memSize (r : RunStatus) : (s.setRun r).memSize = s.memSize := rfl
@[simp] theorem State.setRun_steps (r : RunStatus) : (s.setRun r).steps = s.steps := rfl
@[simp] theorem State.setRun_budget (r : RunStatus) : (s.setRun r).budget = s.budget := rfl
@[simp] theorem State.setRun_haltReq (r : RunStatus) : (s.setRun r).haltReq = s.haltReq := rfl

@[simp] theorem State.advance_a (n : Nat) : (s.advance n).a = s.a := rfl
@[simp] theorem State.advance_x (n : Nat) : (s.advance n).x = s.x := rfl
@[simp] theorem State.advance_y (n : Nat) : (s.advance n).y = s.y := rfl
@[simp] theorem State.advance_sp (n : Nat) : (s.advance n).sp = s.sp := rfl
@[simp] theorem State.advance_pc (n : Nat) : (s.advance n).pc = s.pc + BitVec.ofNat 16 n := rfl
@[simp] theorem State.advance_p (n : Nat) : (s.advance n).p = s.p := rfl
@[simp] theorem State.advance_cyc (n : Nat) : (s.advance n).cyc = s.cyc := rfl
@[simp] theorem State.advance_run (n : Nat) : (s.advance n).run = s.run := rfl
@[simp] theorem State.advance_mem (n : Nat) : (s.advance n).mem = s.mem := rfl
@[simp] theorem State.advance_memSize (n : Nat) : (s.advance n).memSize = s.memSize := rfl
@[simp] theorem State.advance_steps (n : Nat) : (s.advance n).steps = s.steps := rfl
@[simp] theorem State.advance_budget (n : Nat) : (s.advance n).budget = s.budget := rfl
@[simp] theorem State.advance_haltReq (n : Nat) : (s.advance n).haltReq = s.haltReq := rfl

@[simp] theorem State.withNZ_a (v : Byte) : (s.withNZ v).a = s.a := rfl
@[simp] theorem State.withNZ_x (v : Byte) : (s.withNZ v).x = s.x := rfl
@[simp] theorem State.withNZ_y (v : Byte) : (s.withNZ v).y = s.y := rfl
@[simp] theorem State.withNZ_sp (v : Byte) : (s.withNZ v).sp = s.sp := rfl
@[simp] theorem State.withNZ_pc (v : Byte) : (s.withNZ v).pc = s.pc := rfl
@[simp] theorem State.withNZ_p (v : Byte) : (s.withNZ v).p = setNZ v s.p := rfl
@[simp] theorem State.withNZ_cyc (v : Byte) : (s.withNZ v).cyc = s.cyc := rfl
@[simp] theorem State.withNZ_run (v : Byte) : (s.withNZ v).run = s.run := rfl
@[simp] theorem State.withNZ_mem (v : Byte) : (s.withNZ v).mem = s.mem := rfl
@[simp] theorem State.withNZ_memSize (v : Byte) : (s.withNZ v).memSize = s.memSize := rfl
@[simp] theorem State.withNZ_steps (v : Byte) : (s.withNZ v).steps = s.steps := rfl
@[simp] theorem State.withNZ_budget (v : Byte) : (s.withNZ v).budget = s.budget := rfl
@[simp] theorem State.withNZ_haltReq (v : Byte) : (s.withNZ v).haltReq = s.haltReq := rfl

@[simp] theorem State.complete_a (n : Nat) : (s.complete n).a = s.a := rfl
@[simp] theorem State.complete_x (n : Nat) : (s.complete n).x = s.x := rfl
@[simp] theorem State.complete_y (n : Nat) : (s.complete n).y = s.y := rfl
@[simp] theorem State.complete_sp (n : Nat) : (s.complete n).sp = s.sp := rfl
@[simp] theorem State.complete_pc (n : Nat) : (s.complete n).pc = s.pc := rfl
@[simp] theorem State.complete_p (n : Nat) : (s.complete n).p = s.p := rfl
@[simp] theorem State.complete_cyc (n : Nat) : (s.complete n).cyc = s.cyc + n := rfl
@[simp] theorem State.complete_run (n : Nat) : (s.complete n).run = s.run := rfl
@[simp] theorem State.complete_mem (n : Nat) : (s.complete n).mem = s.mem := rfl
@[simp] theorem State.complete_memSize (n : Nat) : (s.complete n).memSize = s.memSize := rfl
@[simp] theorem State.complete_steps (n : Nat) : (s.complete n).steps = s.steps + 1 := rfl
@[simp] theorem State.complete_budget (n : Nat) : (s.complete n).budget = s.budget := rfl
@[simp] theorem State.complete_haltReq (n : Nat) : (s.complete n).haltReq = s.haltReq := rfl

end Sys2Proof.Machine
end

