-- ==== Sys2Proof/Laws/Memory.lean ====
section
/-! SUPPORT. Every memory operation keeps the canonical form of the image and its bounds. -/
namespace Sys2Proof.Machine

theorem Memory.above_place {lo a : Nat} {v : Byte} {m : Memory} (ha : lo < a) (h : Memory.above lo m = true) :
    Memory.above lo (Memory.place a v m) = true := by
  unfold Memory.place
  split
  · exact h
  · simp [Memory.above, ha, h]

theorem Memory.above_mono {lo k : Nat} (hk : lo ≤ k) : ∀ {m : Memory}, Memory.above k m = true →
    Memory.above lo m = true
  | [], _ => rfl
  | (j, _) :: rest, h => by
    simp only [Memory.above, Bool.and_eq_true, decide_eq_true_eq] at h ⊢
    exact ⟨by omega, Memory.above_mono hk h.2⟩

theorem Memory.above_write {lo a : Nat} {v : Byte} (ha : lo < a) : ∀ {m : Memory}, Memory.above lo m = true →
    Memory.above lo (Memory.write m a v) = true
  | [], h => Memory.above_place ha h
  | (k, u) :: rest, h => by
    simp only [Memory.above, Bool.and_eq_true, decide_eq_true_eq] at h
    simp only [Memory.write]
    split
    · exact Memory.above_place ha (by simp [Memory.above, h])
    · split
      · exact Memory.above_place ha h.2
      · simp [Memory.above, h.1, Memory.above_write ha h.2]

theorem Memory.wf_place {a : Nat} {v : Byte} {m : Memory} (h : Memory.wf m = true)
    (ha : Memory.above a m = true) : Memory.wf (Memory.place a v m) = true := by
  unfold Memory.place
  split
  · exact h
  · simp_all [Memory.wf]

/-- A write keeps the canonical form. -/
theorem Memory.wf_write (a : Nat) (v : Byte) : ∀ {m : Memory}, Memory.wf m = true →
    Memory.wf (Memory.write m a v) = true
  | [], h => Memory.wf_place h rfl
  | (k, u) :: rest, h => by
    have h' := h
    simp only [Memory.wf, Bool.and_eq_true, decide_eq_true_eq] at h'
    obtain ⟨⟨hu, hk⟩, hr⟩ := h'
    simp only [Memory.write]
    split
    · next hlt => exact Memory.wf_place h (by simp [Memory.above, hlt, Memory.above_mono (Nat.le_of_lt hlt) hk])
    · split
      · next heq => exact Memory.wf_place hr (heq ▸ hk)
      · next hlt hne =>
        have : k < a := by omega
        simp [Memory.wf, hu, Memory.above_write this hk, Memory.wf_write a v hr]

theorem Memory.within_place {size a : Nat} {v : Byte} {m : Memory} (ha : a < size) (hb : a < 65536)
    (h : Memory.within size m = true) : Memory.within size (Memory.place a v m) = true := by
  unfold Memory.place
  split
  · exact h
  · simp [Memory.within, ha, hb, h]

/-- A write below the size keeps every cell below the size. -/
theorem Memory.within_write {size a : Nat} {v : Byte} (ha : a < size) (hb : a < 65536) :
    ∀ {m : Memory}, Memory.within size m = true → Memory.within size (Memory.write m a v) = true
  | [], h => Memory.within_place ha hb h
  | (k, u) :: rest, h => by
    have h' := h
    simp only [Memory.within, Bool.and_eq_true, decide_eq_true_eq] at h'
    simp only [Memory.write]
    split
    · exact Memory.within_place ha hb h
    · split
      · exact Memory.within_place ha hb h'.2
      · simp [Memory.within, h'.1.1, h'.1.2, Memory.within_write ha hb h'.2]

/-- The image after reset is canonical. -/
theorem reset_mem_wf : Memory.wf State.reset.mem = true := rfl

theorem imageFrom_above (bs : List Byte) : ∀ (a lo : Nat), lo < a → Memory.above lo (imageFrom bs a) = true := by
  induction bs with
  | nil => intros; rfl
  | cons b bs ih =>
    intro a lo h
    unfold imageFrom
    split
    · exact Memory.above_place h (ih _ _ (by omega))
    · rfl

/-- An injected image is canonical. -/
theorem imageFrom_wf (bs : List Byte) : ∀ a : Nat, Memory.wf (imageFrom bs a) = true := by
  induction bs with
  | nil => intro; rfl
  | cons b bs ih =>
    intro a
    unfold imageFrom
    split
    · exact Memory.wf_place (ih _) (imageFrom_above bs _ _ (by omega))
    · rfl

end Sys2Proof.Machine
end

