-- ==== Sys2Proof/Laws/Ops.lean ====
section
/-! SUPPORT. What each shared operation of the machine can answer, said once. -/
namespace Sys2Proof.Machine

/-- A read answers the image's byte below MEM_SIZE and OutOfRange otherwise. -/
theorem memRead_cases (a : Addr) (s : State) :
    (a.toNat < s.memSize ∧ memRead a s = .ok (Memory.read s.mem a.toNat)) ∨
      (s.memSize ≤ a.toNat ∧ memRead a s = .error (.outOfRange a .read)) := by
  unfold memRead
  split
  · next h => exact .inl ⟨h, rfl⟩
  · next h => exact .inr ⟨by omega, rfl⟩

theorem memRead_ok {a : Addr} {s : State} (h : a.toNat < s.memSize) :
    memRead a s = .ok (Memory.read s.mem a.toNat) := by simp [memRead, h]

theorem memRead_out {a : Addr} {s : State} (h : ¬ a.toNat < s.memSize) :
    memRead a s = .error (.outOfRange a .read) := by simp [memRead, h]

theorem memWrite_ok {a : Addr} {v : Byte} {s : State} (h : a.toNat < s.memSize) :
    memWrite a v s = .ok (s.setMem (Memory.write s.mem a.toNat v)) := by simp [memWrite, h]

theorem memWrite_out {a : Addr} {v : Byte} {s : State} (h : ¬ a.toNat < s.memSize) :
    memWrite a v s = .error (raise (.outOfRange a .write) s) := by simp [memWrite, h]

theorem push_ok {v : Byte} {s : State} (h : (stackAddr s.sp).toNat < s.memSize) :
    push v s = .ok { s with mem := Memory.write s.mem (stackAddr s.sp).toNat v, sp := s.sp - 1#8 } := by
  simp only [push, memWrite_ok h]; rfl

theorem push_out {v : Byte} {s : State} (h : ¬ (stackAddr s.sp).toNat < s.memSize) :
    push v s = .error (raise (.outOfRange (stackAddr s.sp) .write) s) := by simp only [push, memWrite_out h]

theorem pull_ok {s : State} (h : (stackAddr (s.sp + 1#8)).toNat < s.memSize) :
    pull s = .ok (Memory.read s.mem (stackAddr (s.sp + 1#8)).toNat, { s with sp := s.sp + 1#8 }) := by
  simp [pull, memRead, h]; rfl

theorem pull_out {s : State} (h : ¬ (stackAddr (s.sp + 1#8)).toNat < s.memSize) :
    pull s = .error (raise (.outOfRange (stackAddr (s.sp + 1#8)) .read) { s with sp := s.sp + 1#8 }) := by
  simp [pull, memRead, h]; rfl

/-- The stack address is in page 1 (20_memory.md R60). -/
theorem stackAddr_toNat (sp : Byte) : (stackAddr sp).toNat = 256 + sp.toNat := by
  have := sp.isLt
  simp [stackAddr, zext16, BitVec.toNat_add, BitVec.toNat_setWidth]
  omega

/-- The 16-bit value of two bytes. -/
theorem word16_toNat (hi lo : Byte) : (word16 hi lo).toNat = 256 * hi.toNat + lo.toNat := by
  have := lo.isLt
  simp only [word16, BitVec.toNat_append]
  rw [Nat.shiftLeft_eq, Nat.mul_comm, show (2 : Nat) ^ 8 = 256 from rfl]
  have := Nat.two_pow_add_eq_or_of_lt this hi.toNat
  simp only [show (2 : Nat) ^ 8 = 256 from rfl] at this
  exact this.symm

@[simp] theorem loByte_toNat (w : Addr) : (loByte w).toNat = w.toNat % 256 := by simp [loByte]

@[simp] theorem hiByte_toNat (w : Addr) : (hiByte w).toNat = w.toNat / 256 := by
  have := w.isLt
  simp [hiByte, Nat.shiftRight_eq_div_pow]
  omega

/-- A word is the word of its two bytes. -/
@[simp] theorem word16_hi_lo (w : Addr) : word16 (hiByte w) (loByte w) = w := by
  apply BitVec.eq_of_toNat_eq
  rw [word16_toNat, loByte_toNat, hiByte_toNat]
  omega

@[simp] theorem hiByte_word16 (hi lo : Byte) : hiByte (word16 hi lo) = hi := by
  have := lo.isLt; have := hi.isLt
  apply BitVec.eq_of_toNat_eq
  rw [hiByte_toNat, word16_toNat]
  omega

@[simp] theorem loByte_word16 (hi lo : Byte) : loByte (word16 hi lo) = lo := by
  have := lo.isLt; have := hi.isLt
  apply BitVec.eq_of_toNat_eq
  rw [loByte_toNat, word16_toNat]
  omega

/-- A pair of reads answers the word of its two bytes, or the first address of the two that is out of range. -/
theorem readPair_cases (lo hi : Addr) (s : State) :
    (lo.toNat < s.memSize ∧ hi.toNat < s.memSize ∧
      readPair lo hi s = .ok (word16 (Memory.read s.mem hi.toNat) (Memory.read s.mem lo.toNat))) ∨
    (¬ lo.toNat < s.memSize ∧ readPair lo hi s = .error (.outOfRange lo .read)) ∨
    (lo.toNat < s.memSize ∧ ¬ hi.toNat < s.memSize ∧ readPair lo hi s = .error (.outOfRange hi .read)) := by
  by_cases h : lo.toNat < s.memSize
  · by_cases h' : hi.toNat < s.memSize
    · exact .inl ⟨h, h', by simp [readPair, memRead, h, h']⟩
    · exact .inr (.inr ⟨h, h', by simp [readPair, memRead, h, h']⟩)
  · exact .inr (.inl ⟨h, by simp [readPair, memRead, h]⟩)

end Sys2Proof.Machine
end

