-- ==== Sys2Proof/Laws/Exec.lean ====
section
/-! SUPPORT. What the execution of an instruction can answer, by family: one equation per shape, so that a proof about
an instruction cites the shape's equation and need not unfold the dispatch. -/
namespace Sys2Proof.Laws

open Sys2Proof.Machine Sys2Proof.Claims

/-- Resolving a memory operand reads X, Y and memory only, so PC does not matter. -/
@[simp] theorem resolve_advance (m : MemOperand) (n : Nat) (s : State) : resolve m (s.advance n) = resolve m s := by
  cases m <;> rfl

@[simp] theorem memRead_advance (a : Addr) (n : Nat) (s : State) : memRead a (s.advance n) = memRead a s := rfl

/-- A memory read completes with the byte its operand reads. -/
theorem readMemory_next {op : Byte} {m : MemOperand} {f : Byte → State → State} {s : State} {v : Byte} {c : Bool}
    (h : readOperand (.memory m) s = some (.ok (v, c))) :
    readMemory op m f s = .next ((f v (s.advance (memLength m))).complete (cost op c 0)) := by
  simp only [readOperand] at h
  simp only [readMemory, resolve_advance, memRead_advance]
  split at h
  · cases h
  · next hr =>
    split at h
    · cases h
    · next hv =>
      injection h with h
      injection h with h
      injection h with h1 h2
      subst h1 h2
      simp [hr, hv]

/-- A memory read stops with the record its operand raises. -/
theorem readMemory_fault {op : Byte} {m : MemOperand} {f : Byte → State → State} {s : State} {e : FaultRecord}
    (h : readOperand (.memory m) s = some (.error e)) :
    readMemory op m f s = .fault (raise e (s.advance (memLength m))) := by
  simp only [readOperand] at h
  simp only [readMemory, resolve_advance, memRead_advance]
  split at h
  · next hr =>
    injection h with h
    injection h with h
    subst h
    simp [hr]
  · next hr =>
    split at h
    · next hv =>
      injection h with h
      injection h with h
      subst h
      simp [hr, hv]
    · cases h

/-- A store to a backed address completes. -/
theorem storeMemory_next {op : Byte} {m : MemOperand} {v : Byte} {s : State} {ea : Addr} {c : Bool}
    (h : resolve m s = .ok (ea, c)) (hb : Backed s ea) :
    storeMemory op m v s =
      .next (((s.advance (memLength m)).setMem (Memory.write s.mem ea.toNat v)).complete (cost op c 0)) := by
  have : memWrite ea v (s.advance (memLength m)) =
      .ok ((s.advance (memLength m)).setMem (Memory.write s.mem ea.toNat v)) := memWrite_ok hb
  simp [storeMemory, h, this, finish]

/-- A store to an address outside the image stops. -/
theorem storeMemory_fault {op : Byte} {m : MemOperand} {v : Byte} {s : State} {ea : Addr} {c : Bool}
    (h : resolve m s = .ok (ea, c)) (hb : ¬ Backed s ea) :
    storeMemory op m v s = .fault (raise (.outOfRange ea .write) (s.advance (memLength m))) := by
  have : memWrite ea v (s.advance (memLength m)) =
      .error (raise (.outOfRange ea .write) (s.advance (memLength m))) := memWrite_out hb
  simp [storeMemory, h, this, finish]

theorem storeMemory_unresolved {op : Byte} {m : MemOperand} {v : Byte} {s : State} {e : FaultRecord}
    (h : resolve m s = .error e) : storeMemory op m v s = .fault (raise e (s.advance (memLength m))) := by
  simp [storeMemory, h]

/-- A read-modify-write of a backed byte completes. -/
theorem modifyMemory_next {op : Byte} {m : MemOperand} {f : Byte → Byte → Byte × Byte} {s : State} {ea : Addr}
    {c : Bool} (h : resolve m s = .ok (ea, c)) (hb : Backed s ea) :
    modifyMemory op m f s =
      .next ((((s.advance (memLength m)).setMem
        (Memory.write s.mem ea.toNat (f (Memory.read s.mem ea.toNat) s.p).1)).setP
          (f (Memory.read s.mem ea.toNat) s.p).2).complete (cost op c 0)) := by
  have hr : memRead ea s = .ok (Memory.read s.mem ea.toNat) := memRead_ok hb
  have hw : ∀ v, memWrite ea v (s.advance (memLength m)) =
      .ok ((s.advance (memLength m)).setMem (Memory.write s.mem ea.toNat v)) := fun v => memWrite_ok hb
  simp [modifyMemory, h, hr, hw]

theorem modifyMemory_fault {op : Byte} {m : MemOperand} {f : Byte → Byte → Byte × Byte} {s : State} {ea : Addr}
    {c : Bool} (h : resolve m s = .ok (ea, c)) (hb : ¬ Backed s ea) :
    modifyMemory op m f s = .fault (raise (.outOfRange ea .read) (s.advance (memLength m))) := by
  have hr : memRead ea s = .error (.outOfRange ea .read) := memRead_out hb
  simp [modifyMemory, h, hr]

theorem modifyMemory_unresolved {op : Byte} {m : MemOperand} {f : Byte → Byte → Byte × Byte} {s : State}
    {e : FaultRecord} (h : resolve m s = .error e) :
    modifyMemory op m f s = .fault (raise e (s.advance (memLength m))) := by
  simp [modifyMemory, h]

/-- The effect of an instruction that reads one operand, by mnemonic. -/
def readEffect : Mnemonic → Option (Byte → State → State)
  | .lda => some loadA
  | .ldx => some loadX
  | .ldy => some loadY
  | .adc => some addA
  | .sbc => some subA
  | .and => some andA
  | .ora => some orA
  | .eor => some xorA
  | .cmp => some compareA
  | .cpx => some compareX
  | .cpy => some compareY
  | .bit => some bitTest
  | _ => none

/-- The register a store writes, by mnemonic. -/
def storeSource : Mnemonic → Option (State → Byte)
  | .sta => some State.a
  | .stx => some State.x
  | .sty => some State.y
  | _ => none

/-- The byte operation of a read-modify-write instruction, by mnemonic. -/
def modifyEffect : Mnemonic → Option (Byte → Byte → Byte × Byte)
  | .asl => some shiftAsl
  | .lsr => some shiftLsr
  | .rol => some shiftRol
  | .ror => some shiftRor
  | .inc => some incByte
  | .dec => some decByte
  | _ => none

/-- Every instruction's meaning by shape: a reading, storing or modifying instruction runs its shape's equation. -/
theorem exec_shapes (i : Instr) (s : State) :
    (∀ f v, readEffect i.mnemonic = some f → i.operand = .immediate v →
      exec i s = readImmediate i.opcode v f s) ∧
    (∀ f m, readEffect i.mnemonic = some f → i.operand = .memory m → exec i s = readMemory i.opcode m f s) ∧
    (∀ r m, storeSource i.mnemonic = some r → i.operand = .memory m → exec i s = storeMemory i.opcode m (r s) s) ∧
    (∀ f m, modifyEffect i.mnemonic = some f → i.operand = .memory m → exec i s = modifyMemory i.opcode m f s) ∧
    (∀ f, modifyEffect i.mnemonic = some f → i.operand = .accumulator → exec i s = modifyAcc i.opcode f s) := by
  cases i <;> refine ⟨?_, ?_, ?_, ?_, ?_⟩ <;> intros <;>
    simp_all [readEffect, storeSource, modifyEffect, Instr.mnemonic, Instr.operand, Instr.opcode] <;>
    subst_vars <;> rfl

end Sys2Proof.Laws
end

