-- ==== Sys2Proof/Laws/PerInstr.lean ====
section
/-! SUPPORT. Statements made for each instruction as syntax. -/
namespace Sys2Proof.Laws.WellFormed

/-- The instruction's mnemonic has its addressing mode, and its encoding has the length of its mode. -/
def Statement (i : Instr) : Prop := i.wf = true ∧ (encode i).length = i.length

theorem brk : Statement (.brk) := ⟨rfl, rfl⟩
theorem oraIndX (b : Byte) : Statement (.oraIndX b) := ⟨rfl, rfl⟩
theorem oraZp (b : Byte) : Statement (.oraZp b) := ⟨rfl, rfl⟩
theorem aslZp (b : Byte) : Statement (.aslZp b) := ⟨rfl, rfl⟩
theorem php : Statement (.php) := ⟨rfl, rfl⟩
theorem oraImm (v : Byte) : Statement (.oraImm v) := ⟨rfl, rfl⟩
theorem aslAcc : Statement (.aslAcc) := ⟨rfl, rfl⟩
theorem oraAbs (w : Addr) : Statement (.oraAbs w) := ⟨rfl, rfl⟩
theorem aslAbs (w : Addr) : Statement (.aslAbs w) := ⟨rfl, rfl⟩
theorem bpl (d : Byte) : Statement (.bpl d) := ⟨rfl, rfl⟩
theorem oraIndY (b : Byte) : Statement (.oraIndY b) := ⟨rfl, rfl⟩
theorem oraZpX (b : Byte) : Statement (.oraZpX b) := ⟨rfl, rfl⟩
theorem aslZpX (b : Byte) : Statement (.aslZpX b) := ⟨rfl, rfl⟩
theorem clc : Statement (.clc) := ⟨rfl, rfl⟩
theorem oraAbsY (w : Addr) : Statement (.oraAbsY w) := ⟨rfl, rfl⟩
theorem oraAbsX (w : Addr) : Statement (.oraAbsX w) := ⟨rfl, rfl⟩
theorem aslAbsX (w : Addr) : Statement (.aslAbsX w) := ⟨rfl, rfl⟩
theorem jsr (w : Addr) : Statement (.jsr w) := ⟨rfl, rfl⟩
theorem andIndX (b : Byte) : Statement (.andIndX b) := ⟨rfl, rfl⟩
theorem bitZp (b : Byte) : Statement (.bitZp b) := ⟨rfl, rfl⟩
theorem andZp (b : Byte) : Statement (.andZp b) := ⟨rfl, rfl⟩
theorem rolZp (b : Byte) : Statement (.rolZp b) := ⟨rfl, rfl⟩
theorem plp : Statement (.plp) := ⟨rfl, rfl⟩
theorem andImm (v : Byte) : Statement (.andImm v) := ⟨rfl, rfl⟩
theorem rolAcc : Statement (.rolAcc) := ⟨rfl, rfl⟩
theorem bitAbs (w : Addr) : Statement (.bitAbs w) := ⟨rfl, rfl⟩
theorem andAbs (w : Addr) : Statement (.andAbs w) := ⟨rfl, rfl⟩
theorem rolAbs (w : Addr) : Statement (.rolAbs w) := ⟨rfl, rfl⟩
theorem bmi (d : Byte) : Statement (.bmi d) := ⟨rfl, rfl⟩
theorem andIndY (b : Byte) : Statement (.andIndY b) := ⟨rfl, rfl⟩
theorem andZpX (b : Byte) : Statement (.andZpX b) := ⟨rfl, rfl⟩
theorem rolZpX (b : Byte) : Statement (.rolZpX b) := ⟨rfl, rfl⟩
theorem sec : Statement (.sec) := ⟨rfl, rfl⟩
theorem andAbsY (w : Addr) : Statement (.andAbsY w) := ⟨rfl, rfl⟩
theorem andAbsX (w : Addr) : Statement (.andAbsX w) := ⟨rfl, rfl⟩
theorem rolAbsX (w : Addr) : Statement (.rolAbsX w) := ⟨rfl, rfl⟩
theorem rti : Statement (.rti) := ⟨rfl, rfl⟩
theorem eorIndX (b : Byte) : Statement (.eorIndX b) := ⟨rfl, rfl⟩
theorem eorZp (b : Byte) : Statement (.eorZp b) := ⟨rfl, rfl⟩
theorem lsrZp (b : Byte) : Statement (.lsrZp b) := ⟨rfl, rfl⟩
theorem pha : Statement (.pha) := ⟨rfl, rfl⟩
theorem eorImm (v : Byte) : Statement (.eorImm v) := ⟨rfl, rfl⟩
theorem lsrAcc : Statement (.lsrAcc) := ⟨rfl, rfl⟩
theorem jmpAbs (w : Addr) : Statement (.jmpAbs w) := ⟨rfl, rfl⟩
theorem eorAbs (w : Addr) : Statement (.eorAbs w) := ⟨rfl, rfl⟩
theorem lsrAbs (w : Addr) : Statement (.lsrAbs w) := ⟨rfl, rfl⟩
theorem bvc (d : Byte) : Statement (.bvc d) := ⟨rfl, rfl⟩
theorem eorIndY (b : Byte) : Statement (.eorIndY b) := ⟨rfl, rfl⟩
theorem eorZpX (b : Byte) : Statement (.eorZpX b) := ⟨rfl, rfl⟩
theorem lsrZpX (b : Byte) : Statement (.lsrZpX b) := ⟨rfl, rfl⟩
theorem cli : Statement (.cli) := ⟨rfl, rfl⟩
theorem eorAbsY (w : Addr) : Statement (.eorAbsY w) := ⟨rfl, rfl⟩
theorem eorAbsX (w : Addr) : Statement (.eorAbsX w) := ⟨rfl, rfl⟩
theorem lsrAbsX (w : Addr) : Statement (.lsrAbsX w) := ⟨rfl, rfl⟩
theorem rts : Statement (.rts) := ⟨rfl, rfl⟩
theorem adcIndX (b : Byte) : Statement (.adcIndX b) := ⟨rfl, rfl⟩
theorem adcZp (b : Byte) : Statement (.adcZp b) := ⟨rfl, rfl⟩
theorem rorZp (b : Byte) : Statement (.rorZp b) := ⟨rfl, rfl⟩
theorem pla : Statement (.pla) := ⟨rfl, rfl⟩
theorem adcImm (v : Byte) : Statement (.adcImm v) := ⟨rfl, rfl⟩
theorem rorAcc : Statement (.rorAcc) := ⟨rfl, rfl⟩
theorem jmpInd (w : Addr) : Statement (.jmpInd w) := ⟨rfl, rfl⟩
theorem adcAbs (w : Addr) : Statement (.adcAbs w) := ⟨rfl, rfl⟩
theorem rorAbs (w : Addr) : Statement (.rorAbs w) := ⟨rfl, rfl⟩
theorem bvs (d : Byte) : Statement (.bvs d) := ⟨rfl, rfl⟩
theorem adcIndY (b : Byte) : Statement (.adcIndY b) := ⟨rfl, rfl⟩
theorem adcZpX (b : Byte) : Statement (.adcZpX b) := ⟨rfl, rfl⟩
theorem rorZpX (b : Byte) : Statement (.rorZpX b) := ⟨rfl, rfl⟩
theorem sei : Statement (.sei) := ⟨rfl, rfl⟩
theorem adcAbsY (w : Addr) : Statement (.adcAbsY w) := ⟨rfl, rfl⟩
theorem adcAbsX (w : Addr) : Statement (.adcAbsX w) := ⟨rfl, rfl⟩
theorem rorAbsX (w : Addr) : Statement (.rorAbsX w) := ⟨rfl, rfl⟩
theorem staIndX (b : Byte) : Statement (.staIndX b) := ⟨rfl, rfl⟩
theorem styZp (b : Byte) : Statement (.styZp b) := ⟨rfl, rfl⟩
theorem staZp (b : Byte) : Statement (.staZp b) := ⟨rfl, rfl⟩
theorem stxZp (b : Byte) : Statement (.stxZp b) := ⟨rfl, rfl⟩
theorem dey : Statement (.dey) := ⟨rfl, rfl⟩
theorem txa : Statement (.txa) := ⟨rfl, rfl⟩
theorem styAbs (w : Addr) : Statement (.styAbs w) := ⟨rfl, rfl⟩
theorem staAbs (w : Addr) : Statement (.staAbs w) := ⟨rfl, rfl⟩
theorem stxAbs (w : Addr) : Statement (.stxAbs w) := ⟨rfl, rfl⟩
theorem bcc (d : Byte) : Statement (.bcc d) := ⟨rfl, rfl⟩
theorem staIndY (b : Byte) : Statement (.staIndY b) := ⟨rfl, rfl⟩
theorem styZpX (b : Byte) : Statement (.styZpX b) := ⟨rfl, rfl⟩
theorem staZpX (b : Byte) : Statement (.staZpX b) := ⟨rfl, rfl⟩
theorem stxZpY (b : Byte) : Statement (.stxZpY b) := ⟨rfl, rfl⟩
theorem tya : Statement (.tya) := ⟨rfl, rfl⟩
theorem staAbsY (w : Addr) : Statement (.staAbsY w) := ⟨rfl, rfl⟩
theorem txs : Statement (.txs) := ⟨rfl, rfl⟩
theorem staAbsX (w : Addr) : Statement (.staAbsX w) := ⟨rfl, rfl⟩
theorem ldyImm (v : Byte) : Statement (.ldyImm v) := ⟨rfl, rfl⟩
theorem ldaIndX (b : Byte) : Statement (.ldaIndX b) := ⟨rfl, rfl⟩
theorem ldxImm (v : Byte) : Statement (.ldxImm v) := ⟨rfl, rfl⟩
theorem ldyZp (b : Byte) : Statement (.ldyZp b) := ⟨rfl, rfl⟩
theorem ldaZp (b : Byte) : Statement (.ldaZp b) := ⟨rfl, rfl⟩
theorem ldxZp (b : Byte) : Statement (.ldxZp b) := ⟨rfl, rfl⟩
theorem tay : Statement (.tay) := ⟨rfl, rfl⟩
theorem ldaImm (v : Byte) : Statement (.ldaImm v) := ⟨rfl, rfl⟩
theorem tax : Statement (.tax) := ⟨rfl, rfl⟩
theorem ldyAbs (w : Addr) : Statement (.ldyAbs w) := ⟨rfl, rfl⟩
theorem ldaAbs (w : Addr) : Statement (.ldaAbs w) := ⟨rfl, rfl⟩
theorem ldxAbs (w : Addr) : Statement (.ldxAbs w) := ⟨rfl, rfl⟩
theorem bcs (d : Byte) : Statement (.bcs d) := ⟨rfl, rfl⟩
theorem ldaIndY (b : Byte) : Statement (.ldaIndY b) := ⟨rfl, rfl⟩
theorem ldyZpX (b : Byte) : Statement (.ldyZpX b) := ⟨rfl, rfl⟩
theorem ldaZpX (b : Byte) : Statement (.ldaZpX b) := ⟨rfl, rfl⟩
theorem ldxZpY (b : Byte) : Statement (.ldxZpY b) := ⟨rfl, rfl⟩
theorem clv : Statement (.clv) := ⟨rfl, rfl⟩
theorem ldaAbsY (w : Addr) : Statement (.ldaAbsY w) := ⟨rfl, rfl⟩
theorem tsx : Statement (.tsx) := ⟨rfl, rfl⟩
theorem ldyAbsX (w : Addr) : Statement (.ldyAbsX w) := ⟨rfl, rfl⟩
theorem ldaAbsX (w : Addr) : Statement (.ldaAbsX w) := ⟨rfl, rfl⟩
theorem ldxAbsY (w : Addr) : Statement (.ldxAbsY w) := ⟨rfl, rfl⟩
theorem cpyImm (v : Byte) : Statement (.cpyImm v) := ⟨rfl, rfl⟩
theorem cmpIndX (b : Byte) : Statement (.cmpIndX b) := ⟨rfl, rfl⟩
theorem cpyZp (b : Byte) : Statement (.cpyZp b) := ⟨rfl, rfl⟩
theorem cmpZp (b : Byte) : Statement (.cmpZp b) := ⟨rfl, rfl⟩
theorem decZp (b : Byte) : Statement (.decZp b) := ⟨rfl, rfl⟩
theorem iny : Statement (.iny) := ⟨rfl, rfl⟩
theorem cmpImm (v : Byte) : Statement (.cmpImm v) := ⟨rfl, rfl⟩
theorem dex : Statement (.dex) := ⟨rfl, rfl⟩
theorem cpyAbs (w : Addr) : Statement (.cpyAbs w) := ⟨rfl, rfl⟩
theorem cmpAbs (w : Addr) : Statement (.cmpAbs w) := ⟨rfl, rfl⟩
theorem decAbs (w : Addr) : Statement (.decAbs w) := ⟨rfl, rfl⟩
theorem bne (d : Byte) : Statement (.bne d) := ⟨rfl, rfl⟩
theorem cmpIndY (b : Byte) : Statement (.cmpIndY b) := ⟨rfl, rfl⟩
theorem cmpZpX (b : Byte) : Statement (.cmpZpX b) := ⟨rfl, rfl⟩
theorem decZpX (b : Byte) : Statement (.decZpX b) := ⟨rfl, rfl⟩
theorem cld : Statement (.cld) := ⟨rfl, rfl⟩
theorem cmpAbsY (w : Addr) : Statement (.cmpAbsY w) := ⟨rfl, rfl⟩
theorem cmpAbsX (w : Addr) : Statement (.cmpAbsX w) := ⟨rfl, rfl⟩
theorem decAbsX (w : Addr) : Statement (.decAbsX w) := ⟨rfl, rfl⟩
theorem cpxImm (v : Byte) : Statement (.cpxImm v) := ⟨rfl, rfl⟩
theorem sbcIndX (b : Byte) : Statement (.sbcIndX b) := ⟨rfl, rfl⟩
theorem cpxZp (b : Byte) : Statement (.cpxZp b) := ⟨rfl, rfl⟩
theorem sbcZp (b : Byte) : Statement (.sbcZp b) := ⟨rfl, rfl⟩
theorem incZp (b : Byte) : Statement (.incZp b) := ⟨rfl, rfl⟩
theorem inx : Statement (.inx) := ⟨rfl, rfl⟩
theorem sbcImm (v : Byte) : Statement (.sbcImm v) := ⟨rfl, rfl⟩
theorem nop : Statement (.nop) := ⟨rfl, rfl⟩
theorem cpxAbs (w : Addr) : Statement (.cpxAbs w) := ⟨rfl, rfl⟩
theorem sbcAbs (w : Addr) : Statement (.sbcAbs w) := ⟨rfl, rfl⟩
theorem incAbs (w : Addr) : Statement (.incAbs w) := ⟨rfl, rfl⟩
theorem beq (d : Byte) : Statement (.beq d) := ⟨rfl, rfl⟩
theorem sbcIndY (b : Byte) : Statement (.sbcIndY b) := ⟨rfl, rfl⟩
theorem sbcZpX (b : Byte) : Statement (.sbcZpX b) := ⟨rfl, rfl⟩
theorem incZpX (b : Byte) : Statement (.incZpX b) := ⟨rfl, rfl⟩
theorem sed : Statement (.sed) := ⟨rfl, rfl⟩
theorem sbcAbsY (w : Addr) : Statement (.sbcAbsY w) := ⟨rfl, rfl⟩
theorem sbcAbsX (w : Addr) : Statement (.sbcAbsX w) := ⟨rfl, rfl⟩
theorem incAbsX (w : Addr) : Statement (.incAbsX w) := ⟨rfl, rfl⟩

end Sys2Proof.Laws.WellFormed

namespace Sys2Proof.Laws.Tabled

/-- The opcode table's entry for the instruction's opcode has its mnemonic and its addressing mode. -/
def Statement (i : Instr) : Prop :=
  ∃ r, findRow i.opcode = some r ∧ r.mnemonic = i.mnemonic ∧ r.opcode = i.opcode ∧ r.mode = i.operand.mode

theorem brk : Statement (.brk) := ⟨_, rfl, rfl, rfl, rfl⟩
theorem oraIndX (b : Byte) : Statement (.oraIndX b) := ⟨_, rfl, rfl, rfl, rfl⟩
theorem oraZp (b : Byte) : Statement (.oraZp b) := ⟨_, rfl, rfl, rfl, rfl⟩
theorem aslZp (b : Byte) : Statement (.aslZp b) := ⟨_, rfl, rfl, rfl, rfl⟩
theorem php : Statement (.php) := ⟨_, rfl, rfl, rfl, rfl⟩
theorem oraImm (v : Byte) : Statement (.oraImm v) := ⟨_, rfl, rfl, rfl, rfl⟩
theorem aslAcc : Statement (.aslAcc) := ⟨_, rfl, rfl, rfl, rfl⟩
theorem oraAbs (w : Addr) : Statement (.oraAbs w) := ⟨_, rfl, rfl, rfl, rfl⟩
theorem aslAbs (w : Addr) : Statement (.aslAbs w) := ⟨_, rfl, rfl, rfl, rfl⟩
theorem bpl (d : Byte) : Statement (.bpl d) := ⟨_, rfl, rfl, rfl, rfl⟩
theorem oraIndY (b : Byte) : Statement (.oraIndY b) := ⟨_, rfl, rfl, rfl, rfl⟩
theorem oraZpX (b : Byte) : Statement (.oraZpX b) := ⟨_, rfl, rfl, rfl, rfl⟩
theorem aslZpX (b : Byte) : Statement (.aslZpX b) := ⟨_, rfl, rfl, rfl, rfl⟩
theorem clc : Statement (.clc) := ⟨_, rfl, rfl, rfl, rfl⟩
theorem oraAbsY (w : Addr) : Statement (.oraAbsY w) := ⟨_, rfl, rfl, rfl, rfl⟩
theorem oraAbsX (w : Addr) : Statement (.oraAbsX w) := ⟨_, rfl, rfl, rfl, rfl⟩
theorem aslAbsX (w : Addr) : Statement (.aslAbsX w) := ⟨_, rfl, rfl, rfl, rfl⟩
theorem jsr (w : Addr) : Statement (.jsr w) := ⟨_, rfl, rfl, rfl, rfl⟩
theorem andIndX (b : Byte) : Statement (.andIndX b) := ⟨_, rfl, rfl, rfl, rfl⟩
theorem bitZp (b : Byte) : Statement (.bitZp b) := ⟨_, rfl, rfl, rfl, rfl⟩
theorem andZp (b : Byte) : Statement (.andZp b) := ⟨_, rfl, rfl, rfl, rfl⟩
theorem rolZp (b : Byte) : Statement (.rolZp b) := ⟨_, rfl, rfl, rfl, rfl⟩
theorem plp : Statement (.plp) := ⟨_, rfl, rfl, rfl, rfl⟩
theorem andImm (v : Byte) : Statement (.andImm v) := ⟨_, rfl, rfl, rfl, rfl⟩
theorem rolAcc : Statement (.rolAcc) := ⟨_, rfl, rfl, rfl, rfl⟩
theorem bitAbs (w : Addr) : Statement (.bitAbs w) := ⟨_, rfl, rfl, rfl, rfl⟩
theorem andAbs (w : Addr) : Statement (.andAbs w) := ⟨_, rfl, rfl, rfl, rfl⟩
theorem rolAbs (w : Addr) : Statement (.rolAbs w) := ⟨_, rfl, rfl, rfl, rfl⟩
theorem bmi (d : Byte) : Statement (.bmi d) := ⟨_, rfl, rfl, rfl, rfl⟩
theorem andIndY (b : Byte) : Statement (.andIndY b) := ⟨_, rfl, rfl, rfl, rfl⟩
theorem andZpX (b : Byte) : Statement (.andZpX b) := ⟨_, rfl, rfl, rfl, rfl⟩
theorem rolZpX (b : Byte) : Statement (.rolZpX b) := ⟨_, rfl, rfl, rfl, rfl⟩
theorem sec : Statement (.sec) := ⟨_, rfl, rfl, rfl, rfl⟩
theorem andAbsY (w : Addr) : Statement (.andAbsY w) := ⟨_, rfl, rfl, rfl, rfl⟩
theorem andAbsX (w : Addr) : Statement (.andAbsX w) := ⟨_, rfl, rfl, rfl, rfl⟩
theorem rolAbsX (w : Addr) : Statement (.rolAbsX w) := ⟨_, rfl, rfl, rfl, rfl⟩
theorem rti : Statement (.rti) := ⟨_, rfl, rfl, rfl, rfl⟩
theorem eorIndX (b : Byte) : Statement (.eorIndX b) := ⟨_, rfl, rfl, rfl, rfl⟩
theorem eorZp (b : Byte) : Statement (.eorZp b) := ⟨_, rfl, rfl, rfl, rfl⟩
theorem lsrZp (b : Byte) : Statement (.lsrZp b) := ⟨_, rfl, rfl, rfl, rfl⟩
theorem pha : Statement (.pha) := ⟨_, rfl, rfl, rfl, rfl⟩
theorem eorImm (v : Byte) : Statement (.eorImm v) := ⟨_, rfl, rfl, rfl, rfl⟩
theorem lsrAcc : Statement (.lsrAcc) := ⟨_, rfl, rfl, rfl, rfl⟩
theorem jmpAbs (w : Addr) : Statement (.jmpAbs w) := ⟨_, rfl, rfl, rfl, rfl⟩
theorem eorAbs (w : Addr) : Statement (.eorAbs w) := ⟨_, rfl, rfl, rfl, rfl⟩
theorem lsrAbs (w : Addr) : Statement (.lsrAbs w) := ⟨_, rfl, rfl, rfl, rfl⟩
theorem bvc (d : Byte) : Statement (.bvc d) := ⟨_, rfl, rfl, rfl, rfl⟩
theorem eorIndY (b : Byte) : Statement (.eorIndY b) := ⟨_, rfl, rfl, rfl, rfl⟩
theorem eorZpX (b : Byte) : Statement (.eorZpX b) := ⟨_, rfl, rfl, rfl, rfl⟩
theorem lsrZpX (b : Byte) : Statement (.lsrZpX b) := ⟨_, rfl, rfl, rfl, rfl⟩
theorem cli : Statement (.cli) := ⟨_, rfl, rfl, rfl, rfl⟩
theorem eorAbsY (w : Addr) : Statement (.eorAbsY w) := ⟨_, rfl, rfl, rfl, rfl⟩
theorem eorAbsX (w : Addr) : Statement (.eorAbsX w) := ⟨_, rfl, rfl, rfl, rfl⟩
theorem lsrAbsX (w : Addr) : Statement (.lsrAbsX w) := ⟨_, rfl, rfl, rfl, rfl⟩
theorem rts : Statement (.rts) := ⟨_, rfl, rfl, rfl, rfl⟩
theorem adcIndX (b : Byte) : Statement (.adcIndX b) := ⟨_, rfl, rfl, rfl, rfl⟩
theorem adcZp (b : Byte) : Statement (.adcZp b) := ⟨_, rfl, rfl, rfl, rfl⟩
theorem rorZp (b : Byte) : Statement (.rorZp b) := ⟨_, rfl, rfl, rfl, rfl⟩
theorem pla : Statement (.pla) := ⟨_, rfl, rfl, rfl, rfl⟩
theorem adcImm (v : Byte) : Statement (.adcImm v) := ⟨_, rfl, rfl, rfl, rfl⟩
theorem rorAcc : Statement (.rorAcc) := ⟨_, rfl, rfl, rfl, rfl⟩
theorem jmpInd (w : Addr) : Statement (.jmpInd w) := ⟨_, rfl, rfl, rfl, rfl⟩
theorem adcAbs (w : Addr) : Statement (.adcAbs w) := ⟨_, rfl, rfl, rfl, rfl⟩
theorem rorAbs (w : Addr) : Statement (.rorAbs w) := ⟨_, rfl, rfl, rfl, rfl⟩
theorem bvs (d : Byte) : Statement (.bvs d) := ⟨_, rfl, rfl, rfl, rfl⟩
theorem adcIndY (b : Byte) : Statement (.adcIndY b) := ⟨_, rfl, rfl, rfl, rfl⟩
theorem adcZpX (b : Byte) : Statement (.adcZpX b) := ⟨_, rfl, rfl, rfl, rfl⟩
theorem rorZpX (b : Byte) : Statement (.rorZpX b) := ⟨_, rfl, rfl, rfl, rfl⟩
theorem sei : Statement (.sei) := ⟨_, rfl, rfl, rfl, rfl⟩
theorem adcAbsY (w : Addr) : Statement (.adcAbsY w) := ⟨_, rfl, rfl, rfl, rfl⟩
theorem adcAbsX (w : Addr) : Statement (.adcAbsX w) := ⟨_, rfl, rfl, rfl, rfl⟩
theorem rorAbsX (w : Addr) : Statement (.rorAbsX w) := ⟨_, rfl, rfl, rfl, rfl⟩
theorem staIndX (b : Byte) : Statement (.staIndX b) := ⟨_, rfl, rfl, rfl, rfl⟩
theorem styZp (b : Byte) : Statement (.styZp b) := ⟨_, rfl, rfl, rfl, rfl⟩
theorem staZp (b : Byte) : Statement (.staZp b) := ⟨_, rfl, rfl, rfl, rfl⟩
theorem stxZp (b : Byte) : Statement (.stxZp b) := ⟨_, rfl, rfl, rfl, rfl⟩
theorem dey : Statement (.dey) := ⟨_, rfl, rfl, rfl, rfl⟩
theorem txa : Statement (.txa) := ⟨_, rfl, rfl, rfl, rfl⟩
theorem styAbs (w : Addr) : Statement (.styAbs w) := ⟨_, rfl, rfl, rfl, rfl⟩
theorem staAbs (w : Addr) : Statement (.staAbs w) := ⟨_, rfl, rfl, rfl, rfl⟩
theorem stxAbs (w : Addr) : Statement (.stxAbs w) := ⟨_, rfl, rfl, rfl, rfl⟩
theorem bcc (d : Byte) : Statement (.bcc d) := ⟨_, rfl, rfl, rfl, rfl⟩
theorem staIndY (b : Byte) : Statement (.staIndY b) := ⟨_, rfl, rfl, rfl, rfl⟩
theorem styZpX (b : Byte) : Statement (.styZpX b) := ⟨_, rfl, rfl, rfl, rfl⟩
theorem staZpX (b : Byte) : Statement (.staZpX b) := ⟨_, rfl, rfl, rfl, rfl⟩
theorem stxZpY (b : Byte) : Statement (.stxZpY b) := ⟨_, rfl, rfl, rfl, rfl⟩
theorem tya : Statement (.tya) := ⟨_, rfl, rfl, rfl, rfl⟩
theorem staAbsY (w : Addr) : Statement (.staAbsY w) := ⟨_, rfl, rfl, rfl, rfl⟩
theorem txs : Statement (.txs) := ⟨_, rfl, rfl, rfl, rfl⟩
theorem staAbsX (w : Addr) : Statement (.staAbsX w) := ⟨_, rfl, rfl, rfl, rfl⟩
theorem ldyImm (v : Byte) : Statement (.ldyImm v) := ⟨_, rfl, rfl, rfl, rfl⟩
theorem ldaIndX (b : Byte) : Statement (.ldaIndX b) := ⟨_, rfl, rfl, rfl, rfl⟩
theorem ldxImm (v : Byte) : Statement (.ldxImm v) := ⟨_, rfl, rfl, rfl, rfl⟩
theorem ldyZp (b : Byte) : Statement (.ldyZp b) := ⟨_, rfl, rfl, rfl, rfl⟩
theorem ldaZp (b : Byte) : Statement (.ldaZp b) := ⟨_, rfl, rfl, rfl, rfl⟩
theorem ldxZp (b : Byte) : Statement (.ldxZp b) := ⟨_, rfl, rfl, rfl, rfl⟩
theorem tay : Statement (.tay) := ⟨_, rfl, rfl, rfl, rfl⟩
theorem ldaImm (v : Byte) : Statement (.ldaImm v) := ⟨_, rfl, rfl, rfl, rfl⟩
theorem tax : Statement (.tax) := ⟨_, rfl, rfl, rfl, rfl⟩
theorem ldyAbs (w : Addr) : Statement (.ldyAbs w) := ⟨_, rfl, rfl, rfl, rfl⟩
theorem ldaAbs (w : Addr) : Statement (.ldaAbs w) := ⟨_, rfl, rfl, rfl, rfl⟩
theorem ldxAbs (w : Addr) : Statement (.ldxAbs w) := ⟨_, rfl, rfl, rfl, rfl⟩
theorem bcs (d : Byte) : Statement (.bcs d) := ⟨_, rfl, rfl, rfl, rfl⟩
theorem ldaIndY (b : Byte) : Statement (.ldaIndY b) := ⟨_, rfl, rfl, rfl, rfl⟩
theorem ldyZpX (b : Byte) : Statement (.ldyZpX b) := ⟨_, rfl, rfl, rfl, rfl⟩
theorem ldaZpX (b : Byte) : Statement (.ldaZpX b) := ⟨_, rfl, rfl, rfl, rfl⟩
theorem ldxZpY (b : Byte) : Statement (.ldxZpY b) := ⟨_, rfl, rfl, rfl, rfl⟩
theorem clv : Statement (.clv) := ⟨_, rfl, rfl, rfl, rfl⟩
theorem ldaAbsY (w : Addr) : Statement (.ldaAbsY w) := ⟨_, rfl, rfl, rfl, rfl⟩
theorem tsx : Statement (.tsx) := ⟨_, rfl, rfl, rfl, rfl⟩
theorem ldyAbsX (w : Addr) : Statement (.ldyAbsX w) := ⟨_, rfl, rfl, rfl, rfl⟩
theorem ldaAbsX (w : Addr) : Statement (.ldaAbsX w) := ⟨_, rfl, rfl, rfl, rfl⟩
theorem ldxAbsY (w : Addr) : Statement (.ldxAbsY w) := ⟨_, rfl, rfl, rfl, rfl⟩
theorem cpyImm (v : Byte) : Statement (.cpyImm v) := ⟨_, rfl, rfl, rfl, rfl⟩
theorem cmpIndX (b : Byte) : Statement (.cmpIndX b) := ⟨_, rfl, rfl, rfl, rfl⟩
theorem cpyZp (b : Byte) : Statement (.cpyZp b) := ⟨_, rfl, rfl, rfl, rfl⟩
theorem cmpZp (b : Byte) : Statement (.cmpZp b) := ⟨_, rfl, rfl, rfl, rfl⟩
theorem decZp (b : Byte) : Statement (.decZp b) := ⟨_, rfl, rfl, rfl, rfl⟩
theorem iny : Statement (.iny) := ⟨_, rfl, rfl, rfl, rfl⟩
theorem cmpImm (v : Byte) : Statement (.cmpImm v) := ⟨_, rfl, rfl, rfl, rfl⟩
theorem dex : Statement (.dex) := ⟨_, rfl, rfl, rfl, rfl⟩
theorem cpyAbs (w : Addr) : Statement (.cpyAbs w) := ⟨_, rfl, rfl, rfl, rfl⟩
theorem cmpAbs (w : Addr) : Statement (.cmpAbs w) := ⟨_, rfl, rfl, rfl, rfl⟩
theorem decAbs (w : Addr) : Statement (.decAbs w) := ⟨_, rfl, rfl, rfl, rfl⟩
theorem bne (d : Byte) : Statement (.bne d) := ⟨_, rfl, rfl, rfl, rfl⟩
theorem cmpIndY (b : Byte) : Statement (.cmpIndY b) := ⟨_, rfl, rfl, rfl, rfl⟩
theorem cmpZpX (b : Byte) : Statement (.cmpZpX b) := ⟨_, rfl, rfl, rfl, rfl⟩
theorem decZpX (b : Byte) : Statement (.decZpX b) := ⟨_, rfl, rfl, rfl, rfl⟩
theorem cld : Statement (.cld) := ⟨_, rfl, rfl, rfl, rfl⟩
theorem cmpAbsY (w : Addr) : Statement (.cmpAbsY w) := ⟨_, rfl, rfl, rfl, rfl⟩
theorem cmpAbsX (w : Addr) : Statement (.cmpAbsX w) := ⟨_, rfl, rfl, rfl, rfl⟩
theorem decAbsX (w : Addr) : Statement (.decAbsX w) := ⟨_, rfl, rfl, rfl, rfl⟩
theorem cpxImm (v : Byte) : Statement (.cpxImm v) := ⟨_, rfl, rfl, rfl, rfl⟩
theorem sbcIndX (b : Byte) : Statement (.sbcIndX b) := ⟨_, rfl, rfl, rfl, rfl⟩
theorem cpxZp (b : Byte) : Statement (.cpxZp b) := ⟨_, rfl, rfl, rfl, rfl⟩
theorem sbcZp (b : Byte) : Statement (.sbcZp b) := ⟨_, rfl, rfl, rfl, rfl⟩
theorem incZp (b : Byte) : Statement (.incZp b) := ⟨_, rfl, rfl, rfl, rfl⟩
theorem inx : Statement (.inx) := ⟨_, rfl, rfl, rfl, rfl⟩
theorem sbcImm (v : Byte) : Statement (.sbcImm v) := ⟨_, rfl, rfl, rfl, rfl⟩
theorem nop : Statement (.nop) := ⟨_, rfl, rfl, rfl, rfl⟩
theorem cpxAbs (w : Addr) : Statement (.cpxAbs w) := ⟨_, rfl, rfl, rfl, rfl⟩
theorem sbcAbs (w : Addr) : Statement (.sbcAbs w) := ⟨_, rfl, rfl, rfl, rfl⟩
theorem incAbs (w : Addr) : Statement (.incAbs w) := ⟨_, rfl, rfl, rfl, rfl⟩
theorem beq (d : Byte) : Statement (.beq d) := ⟨_, rfl, rfl, rfl, rfl⟩
theorem sbcIndY (b : Byte) : Statement (.sbcIndY b) := ⟨_, rfl, rfl, rfl, rfl⟩
theorem sbcZpX (b : Byte) : Statement (.sbcZpX b) := ⟨_, rfl, rfl, rfl, rfl⟩
theorem incZpX (b : Byte) : Statement (.incZpX b) := ⟨_, rfl, rfl, rfl, rfl⟩
theorem sed : Statement (.sed) := ⟨_, rfl, rfl, rfl, rfl⟩
theorem sbcAbsY (w : Addr) : Statement (.sbcAbsY w) := ⟨_, rfl, rfl, rfl, rfl⟩
theorem sbcAbsX (w : Addr) : Statement (.sbcAbsX w) := ⟨_, rfl, rfl, rfl, rfl⟩
theorem incAbsX (w : Addr) : Statement (.incAbsX w) := ⟨_, rfl, rfl, rfl, rfl⟩

end Sys2Proof.Laws.Tabled
end

