-- ==== Sys2Proof/Laws/Table.lean ====
section
/-! SUPPORT. Every instruction has its entry in the opcode table, and what the table says of an opcode holds of every
instruction with that opcode. -/
namespace Sys2Proof.Laws

/-- Every instruction's opcode has an entry, with the instruction's mnemonic and mode. -/
theorem row_of_instr (i : Instr) : Tabled.Statement i := by
  cases i with
  | brk => exact Tabled.brk
  | oraIndX b => exact Tabled.oraIndX b
  | oraZp b => exact Tabled.oraZp b
  | aslZp b => exact Tabled.aslZp b
  | php => exact Tabled.php
  | oraImm v => exact Tabled.oraImm v
  | aslAcc => exact Tabled.aslAcc
  | oraAbs w => exact Tabled.oraAbs w
  | aslAbs w => exact Tabled.aslAbs w
  | bpl d => exact Tabled.bpl d
  | oraIndY b => exact Tabled.oraIndY b
  | oraZpX b => exact Tabled.oraZpX b
  | aslZpX b => exact Tabled.aslZpX b
  | clc => exact Tabled.clc
  | oraAbsY w => exact Tabled.oraAbsY w
  | oraAbsX w => exact Tabled.oraAbsX w
  | aslAbsX w => exact Tabled.aslAbsX w
  | jsr w => exact Tabled.jsr w
  | andIndX b => exact Tabled.andIndX b
  | bitZp b => exact Tabled.bitZp b
  | andZp b => exact Tabled.andZp b
  | rolZp b => exact Tabled.rolZp b
  | plp => exact Tabled.plp
  | andImm v => exact Tabled.andImm v
  | rolAcc => exact Tabled.rolAcc
  | bitAbs w => exact Tabled.bitAbs w
  | andAbs w => exact Tabled.andAbs w
  | rolAbs w => exact Tabled.rolAbs w
  | bmi d => exact Tabled.bmi d
  | andIndY b => exact Tabled.andIndY b
  | andZpX b => exact Tabled.andZpX b
  | rolZpX b => exact Tabled.rolZpX b
  | sec => exact Tabled.sec
  | andAbsY w => exact Tabled.andAbsY w
  | andAbsX w => exact Tabled.andAbsX w
  | rolAbsX w => exact Tabled.rolAbsX w
  | rti => exact Tabled.rti
  | eorIndX b => exact Tabled.eorIndX b
  | eorZp b => exact Tabled.eorZp b
  | lsrZp b => exact Tabled.lsrZp b
  | pha => exact Tabled.pha
  | eorImm v => exact Tabled.eorImm v
  | lsrAcc => exact Tabled.lsrAcc
  | jmpAbs w => exact Tabled.jmpAbs w
  | eorAbs w => exact Tabled.eorAbs w
  | lsrAbs w => exact Tabled.lsrAbs w
  | bvc d => exact Tabled.bvc d
  | eorIndY b => exact Tabled.eorIndY b
  | eorZpX b => exact Tabled.eorZpX b
  | lsrZpX b => exact Tabled.lsrZpX b
  | cli => exact Tabled.cli
  | eorAbsY w => exact Tabled.eorAbsY w
  | eorAbsX w => exact Tabled.eorAbsX w
  | lsrAbsX w => exact Tabled.lsrAbsX w
  | rts => exact Tabled.rts
  | adcIndX b => exact Tabled.adcIndX b
  | adcZp b => exact Tabled.adcZp b
  | rorZp b => exact Tabled.rorZp b
  | pla => exact Tabled.pla
  | adcImm v => exact Tabled.adcImm v
  | rorAcc => exact Tabled.rorAcc
  | jmpInd w => exact Tabled.jmpInd w
  | adcAbs w => exact Tabled.adcAbs w
  | rorAbs w => exact Tabled.rorAbs w
  | bvs d => exact Tabled.bvs d
  | adcIndY b => exact Tabled.adcIndY b
  | adcZpX b => exact Tabled.adcZpX b
  | rorZpX b => exact Tabled.rorZpX b
  | sei => exact Tabled.sei
  | adcAbsY w => exact Tabled.adcAbsY w
  | adcAbsX w => exact Tabled.adcAbsX w
  | rorAbsX w => exact Tabled.rorAbsX w
  | staIndX b => exact Tabled.staIndX b
  | styZp b => exact Tabled.styZp b
  | staZp b => exact Tabled.staZp b
  | stxZp b => exact Tabled.stxZp b
  | dey => exact Tabled.dey
  | txa => exact Tabled.txa
  | styAbs w => exact Tabled.styAbs w
  | staAbs w => exact Tabled.staAbs w
  | stxAbs w => exact Tabled.stxAbs w
  | bcc d => exact Tabled.bcc d
  | staIndY b => exact Tabled.staIndY b
  | styZpX b => exact Tabled.styZpX b
  | staZpX b => exact Tabled.staZpX b
  | stxZpY b => exact Tabled.stxZpY b
  | tya => exact Tabled.tya
  | staAbsY w => exact Tabled.staAbsY w
  | txs => exact Tabled.txs
  | staAbsX w => exact Tabled.staAbsX w
  | ldyImm v => exact Tabled.ldyImm v
  | ldaIndX b => exact Tabled.ldaIndX b
  | ldxImm v => exact Tabled.ldxImm v
  | ldyZp b => exact Tabled.ldyZp b
  | ldaZp b => exact Tabled.ldaZp b
  | ldxZp b => exact Tabled.ldxZp b
  | tay => exact Tabled.tay
  | ldaImm v => exact Tabled.ldaImm v
  | tax => exact Tabled.tax
  | ldyAbs w => exact Tabled.ldyAbs w
  | ldaAbs w => exact Tabled.ldaAbs w
  | ldxAbs w => exact Tabled.ldxAbs w
  | bcs d => exact Tabled.bcs d
  | ldaIndY b => exact Tabled.ldaIndY b
  | ldyZpX b => exact Tabled.ldyZpX b
  | ldaZpX b => exact Tabled.ldaZpX b
  | ldxZpY b => exact Tabled.ldxZpY b
  | clv => exact Tabled.clv
  | ldaAbsY w => exact Tabled.ldaAbsY w
  | tsx => exact Tabled.tsx
  | ldyAbsX w => exact Tabled.ldyAbsX w
  | ldaAbsX w => exact Tabled.ldaAbsX w
  | ldxAbsY w => exact Tabled.ldxAbsY w
  | cpyImm v => exact Tabled.cpyImm v
  | cmpIndX b => exact Tabled.cmpIndX b
  | cpyZp b => exact Tabled.cpyZp b
  | cmpZp b => exact Tabled.cmpZp b
  | decZp b => exact Tabled.decZp b
  | iny => exact Tabled.iny
  | cmpImm v => exact Tabled.cmpImm v
  | dex => exact Tabled.dex
  | cpyAbs w => exact Tabled.cpyAbs w
  | cmpAbs w => exact Tabled.cmpAbs w
  | decAbs w => exact Tabled.decAbs w
  | bne d => exact Tabled.bne d
  | cmpIndY b => exact Tabled.cmpIndY b
  | cmpZpX b => exact Tabled.cmpZpX b
  | decZpX b => exact Tabled.decZpX b
  | cld => exact Tabled.cld
  | cmpAbsY w => exact Tabled.cmpAbsY w
  | cmpAbsX w => exact Tabled.cmpAbsX w
  | decAbsX w => exact Tabled.decAbsX w
  | cpxImm v => exact Tabled.cpxImm v
  | sbcIndX b => exact Tabled.sbcIndX b
  | cpxZp b => exact Tabled.cpxZp b
  | sbcZp b => exact Tabled.sbcZp b
  | incZp b => exact Tabled.incZp b
  | inx => exact Tabled.inx
  | sbcImm v => exact Tabled.sbcImm v
  | nop => exact Tabled.nop
  | cpxAbs w => exact Tabled.cpxAbs w
  | sbcAbs w => exact Tabled.sbcAbs w
  | incAbs w => exact Tabled.incAbs w
  | beq d => exact Tabled.beq d
  | sbcIndY b => exact Tabled.sbcIndY b
  | sbcZpX b => exact Tabled.sbcZpX b
  | incZpX b => exact Tabled.incZpX b
  | sed => exact Tabled.sed
  | sbcAbsY w => exact Tabled.sbcAbsY w
  | sbcAbsX w => exact Tabled.sbcAbsX w
  | incAbsX w => exact Tabled.incAbsX w

/-- The entry as a member of the table. -/
theorem row_mem_of_instr (i : Instr) :
    ∃ r ∈ opcodeTable, r.mnemonic = i.mnemonic ∧ r.opcode = i.opcode ∧ r.mode = i.operand.mode := by
  obtain ⟨r, hr, h⟩ := row_of_instr i
  exact ⟨r, List.mem_of_find?_eq_some hr, h⟩

/-- What an entry makes has the entry's opcode, whatever the operand bytes. -/
theorem make_opcode : ∀ r ∈ opcodeTable, ∀ lo hi, (r.make lo hi).opcode = r.opcode := by
  intro r hr lo hi
  simp only [opcodeTable, opcodeRows0, opcodeRows1, opcodeRows2, opcodeRows3, opcodeRows4, opcodeRows5, opcodeRows6,
    opcodeRows7, opcodeRows8, opcodeRows9, opcodeRowsA, opcodeRowsB, opcodeRowsC, opcodeRowsD, opcodeRowsE, opcodeRowsF,
    List.cons_append, List.nil_append, List.mem_cons, List.not_mem_nil, or_false] at hr
  repeat' (rcases hr with rfl | hr)
  all_goals rfl

/-- A decoded instruction has the opcode of its first byte. -/
theorem decode_opcode {op : Byte} {bs rest : List Byte} {i : Instr} (h : decode (op :: bs) = .ok (i, rest)) :
    i.opcode = op := by
  simp only [decode] at h
  split at h
  · cases h
  · next r hr =>
    have ho : r.opcode = op := by simpa using List.find?_some hr
    have hm := make_opcode r (List.mem_of_find?_eq_some hr)
    split at h <;> cases h <;> exact (hm _ _).trans ho

/-- A property of the mnemonic and mode that the table gives an opcode holds of every instruction with that opcode. -/
theorem of_opcode {i : Instr} {op : Byte} {q : Mnemonic → Mode → Prop} (hi : i.opcode = op)
    (h : ∀ r ∈ opcodeTable, r.opcode = op → q r.mnemonic r.mode) : q i.mnemonic i.operand.mode := by
  obtain ⟨r, hr, h1, h2, h3⟩ := row_mem_of_instr i
  rw [← h1, ← h3]
  exact h r hr (h2.trans hi)

end Sys2Proof.Laws
end

