-- ==== Sys2Proof/Laws/Cases.lean ====
section
/-! SUPPORT. Everything the larger shared operations can answer, said once: the two-byte stack operations, interrupt
entry and return, the addressing modes, the shapes of execution, one instruction, the fetch and the step. -/
namespace Sys2Proof.Laws

open Sys2Proof.Machine Sys2Proof.Claims

/-- The record is an OutOfRange of an address the image does not back. -/
def Unbacked (s : State) (e : FaultRecord) : Prop := ∃ a k, e = .outOfRange a k ∧ s.memSize ≤ a.toNat

/-- What the effect of every instruction keeps, completed or not: RUN, the counters, the host's parameters, and the
invariant of the image. -/
structure Keeps (s t : State) : Prop where
  memSize : t.memSize = s.memSize
  budget  : t.budget = s.budget
  haltReq : t.haltReq = s.haltReq
  run     : t.run = s.run
  cyc     : t.cyc = s.cyc
  steps   : t.steps = s.steps
  inv     : s.Inv → t.Inv

/-- A state that differs in the six registers only. -/
theorem Keeps.of_registers {s t : State}
    (h : t = { s with a := t.a, x := t.x, y := t.y, sp := t.sp, pc := t.pc, p := t.p }) : Keeps s t := by
  rw [h]; exact ⟨rfl, rfl, rfl, rfl, rfl, rfl, id⟩

theorem Keeps.trans {s t u : State} (h : Keeps s t) (g : Keeps t u) : Keeps s u :=
  ⟨g.1.trans h.1, g.2.trans h.2, g.3.trans h.3, g.4.trans h.4, g.5.trans h.5, g.6.trans h.6, g.7 ∘ h.7⟩

/-- A write below the image's size. -/
theorem Keeps.of_write (s : State) (ea : Addr) (v : Byte) (h : ea.toNat < s.memSize) :
    Keeps s (s.setMem (Memory.write s.mem ea.toNat v)) :=
  ⟨rfl, rfl, rfl, rfl, rfl, rfl, fun ⟨a, b, c⟩ => ⟨Memory.wf_write _ _ a, Memory.within_write h ea.isLt b, c⟩⟩

/-- An operation's answer: a state that keeps what effects keep, or an OutOfRange from such a state with A, X and Y
unchanged. -/
def Settles (s : State) : Res State → Prop
  | .ok t => Keeps s t
  | .error f => ∃ e t, f = raise e t ∧ Unbacked s e ∧ Keeps s t ∧ t.a = s.a ∧ t.x = s.x ∧ t.y = s.y

theorem sub_two (x : Byte) : x - 1#8 - 1#8 = x - 2#8 := by rw [BitVec.sub_sub]; rfl
theorem sub_three (x : Byte) : x - 2#8 - 1#8 = x - 3#8 := by rw [BitVec.sub_sub]; rfl
theorem add_two (x : Byte) : x + 1#8 + 1#8 = x + 2#8 := by rw [BitVec.add_assoc]; rfl
theorem add_three (x : Byte) : x + 1#8 + 2#8 = x + 3#8 := by rw [BitVec.add_assoc]; rfl

/-- A two-byte push: both slots backed, or the first slot that is not. -/
theorem pushWord_cases (w : Addr) (s : State) :
    (Backed s (stackAddr s.sp) → Backed s (stackAddr (s.sp - 1#8)) →
      pushWord w s = .ok { s with
        sp := s.sp - 2#8
        mem := Memory.write (Memory.write s.mem (stackAddr s.sp).toNat (hiByte w))
          (stackAddr (s.sp - 1#8)).toNat (loByte w) }) ∧
    (¬ Backed s (stackAddr s.sp) → pushWord w s = .error (raise (.outOfRange (stackAddr s.sp) .write) s)) ∧
    (Backed s (stackAddr s.sp) → ¬ Backed s (stackAddr (s.sp - 1#8)) →
      pushWord w s = .error (raise (.outOfRange (stackAddr (s.sp - 1#8)) .write)
        { s with sp := s.sp - 1#8, mem := Memory.write s.mem (stackAddr s.sp).toNat (hiByte w) })) := by
  unfold Backed
  refine ⟨fun h1 h2 => ?_, fun h1 => ?_, fun h1 h2 => ?_⟩
  · rw [pushWord, push_ok (by exact h1)]; dsimp only
    rw [push_ok (by exact h2), ← sub_two]
  · rw [pushWord, push_out (by exact h1)]
  · rw [pushWord, push_ok (by exact h1)]; dsimp only
    rw [push_out (by exact h2)]

/-- A two-byte pull: both slots backed, or the first slot that is not. -/
theorem pullWord_cases (s : State) :
    (Backed s (stackAddr (s.sp + 1#8)) → Backed s (stackAddr (s.sp + 2#8)) →
      pullWord s = .ok (word16 (Memory.read s.mem (stackAddr (s.sp + 2#8)).toNat)
        (Memory.read s.mem (stackAddr (s.sp + 1#8)).toNat), { s with sp := s.sp + 2#8 })) ∧
    (¬ Backed s (stackAddr (s.sp + 1#8)) →
      pullWord s = .error (raise (.outOfRange (stackAddr (s.sp + 1#8)) .read) { s with sp := s.sp + 1#8 })) ∧
    (Backed s (stackAddr (s.sp + 1#8)) → ¬ Backed s (stackAddr (s.sp + 2#8)) →
      pullWord s = .error (raise (.outOfRange (stackAddr (s.sp + 2#8)) .read) { s with sp := s.sp + 2#8 })) := by
  unfold Backed
  refine ⟨fun h1 h2 => ?_, fun h1 => ?_, fun h1 h2 => ?_⟩
  · rw [pullWord, pull_ok (by exact h1)]; dsimp only
    rw [← add_two] at h2
    rw [pull_ok (by exact h2)]; dsimp only; rw [add_two]
  · rw [pullWord, pull_out (by exact h1)]
  · rw [pullWord, pull_ok (by exact h1)]; dsimp only
    rw [← add_two] at h2
    rw [pull_out (by exact h2), add_two]

/-- Interrupt entry: the three slots backed and then the vector's word, or the first slot that is not backed. -/
theorem enterInterrupt_cases (pushed : Byte) (vector : Addr) (s : State) :
    let a1 := stackAddr s.sp
    let a2 := stackAddr (s.sp - 1#8)
    let a3 := stackAddr (s.sp - 2#8)
    let m1 := Memory.write s.mem a1.toNat (hiByte s.pc)
    let m2 := Memory.write m1 a2.toNat (loByte s.pc)
    let m3 := Memory.write m2 a3.toNat pushed
    let u := { s with sp := s.sp - 3#8, mem := m3, p := setFlag .i true s.p }
    (Backed s a1 → Backed s a2 → Backed s a3 →
      enterInterrupt pushed vector s = match read16 vector u with
        | .error e => .error (raise e u)
        | .ok t => .ok { u with pc := t }) ∧
    (¬ Backed s a1 → enterInterrupt pushed vector s = .error (raise (.outOfRange a1 .write) s)) ∧
    (Backed s a1 → ¬ Backed s a2 →
      enterInterrupt pushed vector s = .error (raise (.outOfRange a2 .write) { s with sp := s.sp - 1#8, mem := m1 })) ∧
    (Backed s a1 → Backed s a2 → ¬ Backed s a3 →
      enterInterrupt pushed vector s =
        .error (raise (.outOfRange a3 .write) { s with sp := s.sp - 2#8, mem := m2 })) := by
  intro a1 a2 a3 m1 m2 m3 u
  obtain ⟨p1, p2, p3⟩ := pushWord_cases s.pc s
  refine ⟨fun h1 h2 h3 => ?_, fun h1 => ?_, fun h1 h2 => ?_, fun h1 h2 h3 => ?_⟩
  · have h4 : (stackAddr (s.sp - 2#8)).toNat < s.memSize := h3
    rw [enterInterrupt, p1 h1 h2]; dsimp only
    rw [push_ok (by exact h4)]; dsimp only
    rw [sub_three]
    rfl
  · rw [enterInterrupt, p2 h1]
  · rw [enterInterrupt, p3 h1 h2]
  · have h4 : ¬ (stackAddr (s.sp - 2#8)).toNat < s.memSize := h3
    rw [enterInterrupt, p1 h1 h2]; dsimp only
    rw [push_out (by exact h4)]

/-- Return from interrupt: the three slots backed, or the first slot that is not. -/
theorem returnFromInterrupt_cases (s : State) :
    let a1 := stackAddr (s.sp + 1#8)
    let a2 := stackAddr (s.sp + 2#8)
    let a3 := stackAddr (s.sp + 3#8)
    let q := Memory.read s.mem a1.toNat
    (Backed s a1 → Backed s a2 → Backed s a3 → returnFromInterrupt s = .ok { s with
      sp := s.sp + 3#8, p := q, pc := word16 (Memory.read s.mem a3.toNat) (Memory.read s.mem a2.toNat) }) ∧
    (¬ Backed s a1 → returnFromInterrupt s = .error (raise (.outOfRange a1 .read) { s with sp := s.sp + 1#8 })) ∧
    (Backed s a1 → ¬ Backed s a2 →
      returnFromInterrupt s = .error (raise (.outOfRange a2 .read) { s with sp := s.sp + 2#8, p := q })) ∧
    (Backed s a1 → Backed s a2 → ¬ Backed s a3 →
      returnFromInterrupt s = .error (raise (.outOfRange a3 .read) { s with sp := s.sp + 3#8, p := q })) := by
  intro a1 a2 a3 q
  have key : Backed s a1 → returnFromInterrupt s = match pullWord { s with sp := s.sp + 1#8, p := q } with
      | .error f => .error f | .ok (pc, u) => .ok (u.setPc pc) := by
    intro h1; rw [returnFromInterrupt, pull_ok (by exact h1)]; rfl
  obtain ⟨p1, p2, p3⟩ := pullWord_cases { s with sp := s.sp + 1#8, p := q }
  simp only [add_two, add_three] at p1 p2 p3
  refine ⟨fun h1 h2 h3 => ?_, fun h1 => ?_, fun h1 h2 => ?_, fun h1 h2 h3 => ?_⟩
  · rw [key h1, p1 h2 h3]; rfl
  · rw [returnFromInterrupt, pull_out (by exact h1)]
  · rw [key h1, p2 h2]
  · rw [key h1, p3 h2 h3]

/-- A pair of reads answers a word or an unbacked address. -/
theorem readPair_settles (lo hi : Addr) (s : State) :
    (∃ w, readPair lo hi s = .ok w) ∨ ∃ e, readPair lo hi s = .error e ∧ Unbacked s e := by
  rcases readPair_cases lo hi s with ⟨h1, h2, h3⟩ | ⟨h1, h3⟩ | ⟨h1, h2, h3⟩
  · exact .inl ⟨_, h3⟩
  · exact .inr ⟨_, h3, _, _, rfl, by omega⟩
  · exact .inr ⟨_, h3, _, _, rfl, by omega⟩

/-- Resolving a memory operand answers an address or an unbacked pointer byte. -/
theorem resolve_settles (m : MemOperand) (s : State) :
    (∃ ea c, resolve m s = .ok (ea, c)) ∨ ∃ e, resolve m s = .error e ∧ Unbacked s e := by
  cases m with
  | indexedIndirect b =>
    rcases readPair_settles (zext16 (b + s.x)) (zext16 (b + s.x + 1#8)) s with ⟨w, h⟩ | ⟨e, h, h2⟩
    · exact .inl ⟨w, false, by simp only [resolve, zpRead16, h]⟩
    · exact .inr ⟨e, by simp only [resolve, zpRead16, h], h2⟩
  | indirectIndexed b =>
    rcases readPair_settles (zext16 b) (zext16 (b + 1#8)) s with ⟨w, h⟩ | ⟨e, h, h2⟩
    · exact .inl ⟨w + zext16 s.y, crosses w (w + zext16 s.y), by simp only [resolve, zpRead16, h]⟩
    · exact .inr ⟨e, by simp only [resolve, zpRead16, h], h2⟩
  | _ => exact .inl ⟨_, _, rfl⟩

/-- A shape stopped before its effect: nothing changed but PC, by `k`. -/
def StopsAfter (s : State) (k : Nat) (o : Host.Outcome State Fault Refusal) : Prop :=
  ∃ e, Unbacked s e ∧ o = .fault (raise e (s.advance k))

theorem readMemory_cases (op : Byte) (m : MemOperand) (f : Byte → State → State) (s : State) :
    (∃ v c, readMemory op m f s = .next ((f v (s.advance (memLength m))).complete (cost op c 0))) ∨
    StopsAfter s (memLength m) (readMemory op m f s) := by
  rcases resolve_settles m s with ⟨ea, c, h⟩ | ⟨e, h, h2⟩
  · by_cases hb : ea.toNat < s.memSize
    · exact .inl ⟨_, c, readMemory_next (v := Memory.read s.mem ea.toNat) (by simp [readOperand, h, memRead_ok hb])⟩
    · exact .inr ⟨.outOfRange ea .read, ⟨_, _, rfl, by omega⟩,
        readMemory_fault (by simp only [readOperand, h, memRead_out hb])⟩
  · exact .inr ⟨e, h2, readMemory_fault (by simp [readOperand, h])⟩

theorem storeMemory_cases (op : Byte) (m : MemOperand) (v : Byte) (s : State) :
    (∃ (ea : Addr) (c : Bool), ea.toNat < s.memSize ∧ storeMemory op m v s =
      .next (((s.advance (memLength m)).setMem (Memory.write s.mem ea.toNat v)).complete (cost op c 0))) ∨
    StopsAfter s (memLength m) (storeMemory op m v s) := by
  rcases resolve_settles m s with ⟨ea, c, h⟩ | ⟨e, h, h2⟩
  · by_cases hb : ea.toNat < s.memSize
    · exact .inl ⟨ea, c, hb, storeMemory_next h hb⟩
    · exact .inr ⟨_, ⟨_, _, rfl, by omega⟩, storeMemory_fault h hb⟩
  · exact .inr ⟨e, h2, storeMemory_unresolved h⟩

theorem modifyMemory_cases (op : Byte) (m : MemOperand) (f : Byte → Byte → Byte × Byte) (s : State) :
    (∃ (ea : Addr) (v : Byte) (c : Bool), ea.toNat < s.memSize ∧ modifyMemory op m f s =
      .next ((((s.advance (memLength m)).setMem (Memory.write s.mem ea.toNat (f v s.p).1)).setP
        (f v s.p).2).complete (cost op c 0))) ∨
    StopsAfter s (memLength m) (modifyMemory op m f s) := by
  rcases resolve_settles m s with ⟨ea, c, h⟩ | ⟨e, h, h2⟩
  · by_cases hb : ea.toNat < s.memSize
    · exact .inl ⟨ea, _, c, hb, modifyMemory_next h hb⟩
    · exact .inr ⟨_, ⟨_, _, rfl, by omega⟩, modifyMemory_fault h hb⟩
  · exact .inr ⟨e, h2, modifyMemory_unresolved h⟩

theorem settles_push (v : Byte) (s : State) : Settles s (push v s) := by
  by_cases h : (stackAddr s.sp).toNat < s.memSize
  · rw [push_ok h]; exact (Keeps.of_write s _ v h).trans (.of_registers rfl)
  · rw [push_out h]; exact ⟨_, _, rfl, ⟨_, _, rfl, by omega⟩, .of_registers rfl, rfl, rfl, rfl⟩

theorem settles_pushWord (w : Addr) (s : State) : Settles s (pushWord w s) := by
  obtain ⟨p1, p2, p3⟩ := pushWord_cases w s
  unfold Backed at *
  by_cases h : (stackAddr s.sp).toNat < s.memSize
  · by_cases h2 : (stackAddr (s.sp - 1#8)).toNat < s.memSize
    · rw [p1 h h2]
      exact ((Keeps.of_write s _ _ h).trans (Keeps.of_write (s.setMem _) _ _ h2)).trans (.of_registers rfl)
    · rw [p3 h h2]
      exact ⟨_, _, rfl, ⟨_, _, rfl, by omega⟩, (Keeps.of_write s _ _ h).trans (.of_registers rfl), rfl, rfl, rfl⟩
  · rw [p2 h]; exact ⟨_, _, rfl, ⟨_, _, rfl, by omega⟩, .of_registers rfl, rfl, rfl, rfl⟩

theorem settles_callSub (w : Addr) (s : State) : Settles s (callSub w s) := by
  have := settles_pushWord (s.pc - 1#16) s
  unfold callSub
  split <;> simp_all [Settles]
  exact this.trans (.of_registers rfl)

/-- A pull answers a byte with S one more, or an unbacked slot. -/
theorem pull_settles (s : State) :
    (∃ v, pull s = .ok (v, { s with sp := s.sp + 1#8 })) ∨
    ∃ e t, pull s = .error (raise e t) ∧ Unbacked s e ∧ Keeps s t ∧ t.a = s.a ∧ t.x = s.x ∧ t.y = s.y := by
  by_cases h : (stackAddr (s.sp + 1#8)).toNat < s.memSize
  · exact .inl ⟨_, pull_ok h⟩
  · exact .inr ⟨_, _, pull_out h, ⟨_, _, rfl, by omega⟩, .of_registers rfl, rfl, rfl, rfl⟩

/-- A two-byte pull answers a word with S two more, or an unbacked slot. -/
theorem pullWord_settles (s : State) :
    (∃ w, pullWord s = .ok (w, { s with sp := s.sp + 2#8 })) ∨
    ∃ e t, pullWord s = .error (raise e t) ∧ Unbacked s e ∧ Keeps s t ∧ t.a = s.a ∧ t.x = s.x ∧ t.y = s.y := by
  obtain ⟨p1, p2, p3⟩ := pullWord_cases s
  unfold Backed at *
  by_cases h : (stackAddr (s.sp + 1#8)).toNat < s.memSize
  · by_cases h2 : (stackAddr (s.sp + 2#8)).toNat < s.memSize
    · exact .inl ⟨_, p1 h h2⟩
    · exact .inr ⟨_, _, p3 h h2, ⟨_, _, rfl, by omega⟩, .of_registers rfl, rfl, rfl, rfl⟩
  · exact .inr ⟨_, _, p2 h, ⟨_, _, rfl, by omega⟩, .of_registers rfl, rfl, rfl, rfl⟩

theorem settles_returnFromSub (s : State) : Settles s (returnFromSub s) := by
  unfold returnFromSub
  rcases pullWord_settles s with ⟨w, h⟩ | ⟨e, t, h, h2⟩
  · rw [h]; exact Keeps.of_registers rfl
  · rw [h]; exact ⟨e, t, rfl, h2⟩

theorem settles_pullA (s : State) : Settles s (pullA s) := by
  unfold pullA
  rcases pull_settles s with ⟨w, h⟩ | ⟨e, t, h, h2⟩
  · rw [h]; exact Keeps.of_registers rfl
  · rw [h]; exact ⟨e, t, rfl, h2⟩

theorem settles_pullP (s : State) : Settles s (pullP s) := by
  unfold pullP
  rcases pull_settles s with ⟨w, h⟩ | ⟨e, t, h, h2⟩
  · rw [h]; exact Keeps.of_registers rfl
  · rw [h]; exact ⟨e, t, rfl, h2⟩

theorem settles_jumpIndirect (w : Addr) (s : State) : Settles s (jumpIndirect w s) := by
  unfold jumpIndirect read16
  rcases readPair_settles w (w + 1#16) s with ⟨w, h⟩ | ⟨e, h, h2⟩
  · rw [h]; exact Keeps.of_registers rfl
  · rw [h]; exact ⟨e, _, rfl, h2, .of_registers rfl, rfl, rfl, rfl⟩

theorem settles_returnFromInterrupt (s : State) : Settles s (returnFromInterrupt s) := by
  unfold returnFromInterrupt
  rcases pull_settles s with ⟨w, h⟩ | ⟨e, t, h, h2⟩
  · rw [h]; dsimp only
    rcases pullWord_settles (State.setP w { s with sp := s.sp + 1#8 }) with ⟨w, h⟩ | ⟨e, t, h, h2, h3, h4⟩
    · rw [h]; exact Keeps.of_registers rfl
    · rw [h]; exact ⟨e, t, rfl, h2, Keeps.trans (.of_registers rfl) h3, h4⟩
  · rw [h]; exact ⟨e, t, rfl, h2⟩

theorem settles_enterInterrupt (pushed : Byte) (vector : Addr) (s : State) :
    Settles s (enterInterrupt pushed vector s) := by
  have hw := settles_pushWord s.pc s
  unfold enterInterrupt
  cases hq : pushWord s.pc s with
  | error f => rw [hq] at hw; exact hw
  | ok t =>
    rw [hq] at hw
    have hp := settles_push pushed t
    dsimp only
    cases hr : push pushed t with
    | error f =>
      rw [hr] at hp
      obtain ⟨e, u, rfl, ⟨a, k, h1, h2⟩, h3, h4⟩ := hp
      refine ⟨e, u, rfl, ⟨a, k, h1, by rw [← hw.memSize]; exact h2⟩, hw.trans h3, ?_⟩
      obtain ⟨p1, p2, p3⟩ := pushWord_cases s.pc s
      by_cases b1 : Backed s (stackAddr s.sp)
      · by_cases b2 : Backed s (stackAddr (s.sp - 1#8))
        · rw [p1 b1 b2] at hq; injection hq with hq; subst hq; exact h4
        · rw [p3 b1 b2] at hq; cases hq
      · rw [p2 b1] at hq; cases hq
    | ok u =>
      rw [hr] at hp
      dsimp only
      have hk : Keeps s (u.setP (setFlag .i true u.p)) := (hw.trans hp).trans (.of_registers rfl)
      rcases readPair_settles vector (vector + 1#16) (u.setP (setFlag .i true u.p)) with ⟨w, h⟩ | ⟨e, h, a, k, h1, h2⟩
      · rw [read16, h]; exact hk.trans (.of_registers rfl)
      · rw [read16, h]
        refine ⟨e, _, rfl, ⟨a, k, h1, by rw [← hk.memSize]; exact h2⟩, hk, ?_⟩
        obtain ⟨p1, p2, p3⟩ := pushWord_cases s.pc s
        have ht : t.a = s.a ∧ t.x = s.x ∧ t.y = s.y := by
          by_cases b1 : Backed s (stackAddr s.sp)
          · by_cases b2 : Backed s (stackAddr (s.sp - 1#8))
            · rw [p1 b1 b2] at hq; injection hq with hq; subst hq; exact ⟨rfl, rfl, rfl⟩
            · rw [p3 b1 b2] at hq; cases hq
          · rw [p2 b1] at hq; cases hq
        by_cases b : (stackAddr t.sp).toNat < t.memSize
        · rw [push_ok b] at hr; injection hr with hr; subst hr; exact ht
        · rw [push_out b] at hr; cases hr

/-- What the execution of any instruction can answer: completed with 2 to 7 cycles, or stopped by an OutOfRange. -/
def Answers (s : State) (o : Host.Outcome State Fault Refusal) : Prop :=
  (∃ t n, o = .next (t.complete n) ∧ 2 ≤ n ∧ n ≤ 7 ∧ Keeps s t) ∨
  (∃ e t, o = .fault (raise e t) ∧ Unbacked s e ∧ Keeps s t ∧ t.a = s.a ∧ t.x = s.x ∧ t.y = s.y)

theorem answers_stopsAfter {s : State} {k : Nat} {o : Host.Outcome State Fault Refusal} (h : StopsAfter s k o) :
    Answers s o := by
  obtain ⟨e, h1, h2⟩ := h
  exact .inr ⟨e, _, h2, h1, .of_registers rfl, rfl, rfl, rfl⟩

/-- Every entry of the cycle table is between 2 and 7, its penalty included (40_sequencer.md R108). -/
theorem cost_bounds (i : Instr) (c : Bool) : 2 ≤ cost i.opcode c 0 ∧ cost i.opcode c 0 ≤ 7 := by
  obtain ⟨r, hr, h1, h2, h3⟩ := row_mem_of_instr i
  have : ∀ r ∈ opcodeTable, ∀ c, 2 ≤ cost r.opcode c 0 ∧ cost r.opcode c 0 ≤ 7 := by decide +kernel
  exact h2 ▸ this r hr c

/-- The eight branches cost 2 and their extra (47_branch.md R259). -/
theorem branch_cost (op : Byte) (h : op ∈ ([0x90, 0xB0, 0xF0, 0xD0, 0x30, 0x10, 0x50, 0x70] : List Byte)) (k : Nat) :
    cost op false k = 2 + k := by
  have key : ∀ op ∈ ([0x90, 0xB0, 0xF0, 0xD0, 0x30, 0x10, 0x50, 0x70] : List Byte),
      baseCycles op = 2 ∧ pagePenalty op false = 0 := by decide +kernel
  obtain ⟨a, b⟩ := key op h
  simp [cost, a, b]

theorem settles_advance {s : State} {n : Nat} {r : Res State} (h : Settles (s.advance n) r) : Settles s r := by
  cases r with
  | ok t => exact Keeps.trans (.of_registers rfl) h
  | error f =>
    obtain ⟨e, t, rfl, h1, h2, h3⟩ := h
    exact ⟨e, t, rfl, h1, Keeps.trans (.of_registers rfl) h2, h3⟩

theorem answers_plain (i : Instr) {len : Nat} {f : State → Res State} {s : State} (h : ∀ t, Settles t (f t)) :
    Answers s (runPlain i.opcode len f s) := by
  have hs := settles_advance (n := len) (h (s.advance len))
  have hc := cost_bounds i false
  unfold runPlain
  cases hf : f (s.advance len) with
  | ok t => rw [hf] at hs; exact .inl ⟨t, _, rfl, hc.1, hc.2, hs⟩
  | error g => rw [hf] at hs; obtain ⟨e, t, rfl, hs⟩ := hs; exact .inr ⟨e, t, rfl, hs⟩

theorem answers_implied (i : Instr) (f : State → State) (s : State)
    (h : ∀ t, f t = { t with
      a := (f t).a, x := (f t).x, y := (f t).y, sp := (f t).sp, pc := (f t).pc, p := (f t).p }) :
    Answers s (runImplied i.opcode f s) := answers_plain i fun t => Keeps.of_registers (h t)

theorem answers_immediate (i : Instr) (v : Byte) (f : Byte → State → State) (s : State)
    (h : ∀ t, f v t = { t with
      a := (f v t).a, x := (f v t).x, y := (f v t).y, sp := (f v t).sp, pc := (f v t).pc, p := (f v t).p }) :
    Answers s (readImmediate i.opcode v f s) := answers_plain i fun t => Keeps.of_registers (h t)

theorem answers_read (i : Instr) {m : MemOperand} {f : Byte → State → State} {s : State}
    (h : ∀ v t, Keeps t (f v t)) : Answers s (readMemory i.opcode m f s) := by
  rcases readMemory_cases i.opcode m f s with ⟨v, c, g⟩ | g
  · exact .inl ⟨_, _, g, (cost_bounds i c).1, (cost_bounds i c).2, Keeps.trans (.of_registers rfl) (h v _)⟩
  · exact answers_stopsAfter g

theorem answers_store (i : Instr) {m : MemOperand} {v : Byte} {s : State} :
    Answers s (storeMemory i.opcode m v s) := by
  rcases storeMemory_cases i.opcode m v s with ⟨ea, c, h, g⟩ | g
  · exact .inl ⟨_, _, g, (cost_bounds i c).1, (cost_bounds i c).2,
      Keeps.trans (.of_registers rfl) (Keeps.of_write (s.advance _) ea v h)⟩
  · exact answers_stopsAfter g

theorem answers_modify (i : Instr) {m : MemOperand} {f : Byte → Byte → Byte × Byte} {s : State} :
    Answers s (modifyMemory i.opcode m f s) := by
  rcases modifyMemory_cases i.opcode m f s with ⟨ea, v, c, h, g⟩ | g
  · exact .inl ⟨_, _, g, (cost_bounds i c).1, (cost_bounds i c).2,
      (Keeps.trans (.of_registers rfl) (Keeps.of_write (s.advance _) ea _ h)).trans (.of_registers rfl)⟩
  · exact answers_stopsAfter g

theorem answers_branch (i : Instr) {f : Flag} {on : Bool} {d : Byte} {s : State}
    (h : i.opcode ∈ ([0x90, 0xB0, 0xF0, 0xD0, 0x30, 0x10, 0x50, 0x70] : List Byte)) :
    Answers s (branchIf i.opcode f on d s) := by
  unfold branchIf
  simp only [branch_cost _ h]
  split
  · exact .inl ⟨_, _, rfl, by omega, by cases crosses _ _ <;> simp, .of_registers rfl⟩
  · exact .inl ⟨_, _, rfl, by omega, by omega, .of_registers rfl⟩

/-- Every instruction, in every state. -/
theorem exec_answers (i : Instr) (s : State) : Answers s (exec i s) := by
  cases i with
  | brk => exact answers_plain .brk fun t => settles_enterInterrupt _ _ t
  | rti => exact answers_plain .rti settles_returnFromInterrupt
  | jsr w => exact answers_plain (.jsr w) (settles_callSub w)
  | rts => exact answers_plain .rts settles_returnFromSub
  | pha => exact answers_plain .pha fun t => settles_push _ t
  | php => exact answers_plain .php fun t => settles_push _ t
  | pla => exact answers_plain .pla settles_pullA
  | plp => exact answers_plain .plp settles_pullP
  | jmpAbs w =>
    show Answers s (runPlain 0x4C#8 3 (fun t => .ok (t.setPc w)) s)
    exact answers_plain (.jmpAbs w) fun t => Keeps.of_registers (s := t) rfl
  | jmpInd w => exact answers_plain (.jmpInd w) (settles_jumpIndirect w)
  | bcc d => exact answers_branch (.bcc d) (by simp [Instr.opcode])
  | bcs d => exact answers_branch (.bcs d) (by simp [Instr.opcode])
  | beq d => exact answers_branch (.beq d) (by simp [Instr.opcode])
  | bne d => exact answers_branch (.bne d) (by simp [Instr.opcode])
  | bmi d => exact answers_branch (.bmi d) (by simp [Instr.opcode])
  | bpl d => exact answers_branch (.bpl d) (by simp [Instr.opcode])
  | bvc d => exact answers_branch (.bvc d) (by simp [Instr.opcode])
  | bvs d => exact answers_branch (.bvs d) (by simp [Instr.opcode])
  | clc => show Answers s (execClc s); exact answers_implied .clc _ s fun _ => rfl
  | cld => show Answers s (execCld s); exact answers_implied .cld _ s fun _ => rfl
  | cli => show Answers s (execCli s); exact answers_implied .cli _ s fun _ => rfl
  | clv => show Answers s (execClv s); exact answers_implied .clv _ s fun _ => rfl
  | sec => show Answers s (execSec s); exact answers_implied .sec _ s fun _ => rfl
  | sed => show Answers s (execSed s); exact answers_implied .sed _ s fun _ => rfl
  | sei => show Answers s (execSei s); exact answers_implied .sei _ s fun _ => rfl
  | tax => show Answers s (execTax s); exact answers_implied .tax _ s fun _ => rfl
  | tay => show Answers s (execTay s); exact answers_implied .tay _ s fun _ => rfl
  | txa => show Answers s (execTxa s); exact answers_implied .txa _ s fun _ => rfl
  | tya => show Answers s (execTya s); exact answers_implied .tya _ s fun _ => rfl
  | tsx => show Answers s (execTsx s); exact answers_implied .tsx _ s fun _ => rfl
  | txs => show Answers s (execTxs s); exact answers_implied .txs _ s fun _ => rfl
  | inx => show Answers s (execInx s); exact answers_implied .inx _ s fun _ => rfl
  | iny => show Answers s (execIny s); exact answers_implied .iny _ s fun _ => rfl
  | dex => show Answers s (execDex s); exact answers_implied .dex _ s fun _ => rfl
  | dey => show Answers s (execDey s); exact answers_implied .dey _ s fun _ => rfl
  | nop => show Answers s (execNop s); exact answers_implied .nop _ s fun _ => rfl
  | _ => first
    | (rw [(exec_shapes _ s).2.2.1 _ _ rfl rfl]; exact answers_store _)
    | (rw [(exec_shapes _ s).2.2.2.1 _ _ rfl rfl]; exact answers_modify _)
    | (rw [(exec_shapes _ s).2.1 _ _ rfl rfl]; exact answers_read _ fun _ _ => .of_registers rfl)
    | (rw [(exec_shapes _ s).1 _ _ rfl rfl]; exact answers_immediate _ _ _ _ fun _ => rfl)
    | (rw [(exec_shapes _ s).2.2.2.2 _ rfl rfl]; exact answers_implied _ _ _ fun _ => rfl)

theorem fetchByte_ok {s : State} (h : s.pc.toNat < s.memSize) :
    fetchByte s = .ok (Memory.read s.mem s.pc.toNat, s.advance 1) := by
  simp [fetchByte, memRead_ok h]

theorem fetchByte_out {s : State} (h : ¬ s.pc.toNat < s.memSize) :
    fetchByte s = .error (raise (.outOfRange s.pc .read) s) := by
  simp [fetchByte, memRead_out h]

/-- With every operand byte backed, fetching them answers exactly those bytes. -/
theorem fetchOperand_ok (m : Mode) (s : State) (hb : ∀ k < m.operandBytes, Backed s (s.pc + BitVec.ofNat 16 k)) :
    fetchOperand m s =
      .ok ([Memory.read s.mem s.pc.toNat, Memory.read s.mem (s.pc + 1#16).toNat].take m.operandBytes) := by
  have h0 : 0 < m.operandBytes → s.pc.toNat < s.memSize := fun h => by simpa [Backed] using hb 0 h
  have h1 : 1 < m.operandBytes → (s.pc + 1#16).toNat < s.memSize := fun h => by simpa [Backed] using hb 1 h
  cases m <;> simp only [fetchOperand, Mode.operandBytes] at * <;> simp_all [fetchByte, memRead]

/-- Fetching operand bytes answers as many as the mode has, or an unbacked byte with only PC changed. -/
theorem fetchOperand_cases (m : Mode) (s : State) :
    (∃ bs, fetchOperand m s = .ok bs ∧ bs.length = m.operandBytes) ∨
    ∃ e k, k ≤ 1 ∧ fetchOperand m s = .error (raise e (s.advance k)) ∧ Unbacked s e := by
  by_cases h0 : s.pc.toNat < s.memSize
  · by_cases h1 : (s.pc + 1#16).toNat < s.memSize
    · refine .inl ⟨_, fetchOperand_ok m s ?_, by cases m <;> rfl⟩
      intro k hk
      have : k = 0 ∨ k = 1 := by cases m <;> simp [Mode.operandBytes] at hk <;> omega
      rcases this with rfl | rfl
      · simpa [Backed] using h0
      · exact h1
    · by_cases hm : m.operandBytes ≤ 1
      · refine .inl ⟨_, fetchOperand_ok m s ?_, by cases m <;> rfl⟩
        intro k hk
        obtain rfl : k = 0 := by omega
        simpa [Backed] using h0
      · refine .inr ⟨.outOfRange (s.pc + 1#16) .read, 1, Nat.le_refl _, ?_, _, _, rfl, Nat.le_of_not_lt h1⟩
        have h2 : fetchByte (s.advance 1) = .error (raise (.outOfRange (s.pc + 1#16) .read) (s.advance 1)) :=
          fetchByte_out h1
        cases m <;> simp only [Mode.operandBytes, fetchOperand] at hm ⊢ <;> try omega
        all_goals simp only [reduceCtorEq, if_false, fetchByte_ok h0, h2]
  · by_cases hm : m.operandBytes = 0
    · exact .inl ⟨[], by cases m <;> first | rfl | simp [Mode.operandBytes] at hm, by simp [hm]⟩
    · by_cases hi : m = .immediate
      · exact .inr ⟨.outOfRange s.pc .read, 1, Nat.le_refl _, by simp [hi, fetchOperand, memRead_out h0], _, _, rfl,
          by omega⟩
      · refine .inr ⟨.outOfRange s.pc .read, 0, Nat.zero_le _, ?_, _, _, rfl, by omega⟩
        have : s.advance 0 = s := by simp [State.advance, State.setPc]
        rw [this]
        cases m <;> first
          | exact absurd rfl hi
          | exact absurd rfl hm
          | simp only [fetchOperand, Mode.operandBytes, fetchByte_out h0, reduceCtorEq, if_false]

/-- The fetch answers an instruction with the opcode at PC, the illegal opcode at PC, or an unbacked operand byte. -/
theorem fetch_cases (s : State) (h : s.pc.toNat < s.memSize) :
    (findRow (Memory.read s.mem s.pc.toNat) = none ∧
      fetch s = .error (raise (.illegalOpcode (Memory.read s.mem s.pc.toNat) s.pc) (s.advance 1))) ∨
    (∃ r, findRow (Memory.read s.mem s.pc.toNat) = some r) ∧
      ((∃ i, i.opcode = Memory.read s.mem s.pc.toNat ∧ fetch s = .ok i) ∨
        ∃ e k, 1 ≤ k ∧ k ≤ 2 ∧ fetch s = .error (raise e (s.advance k)) ∧ Unbacked s e) := by
  unfold fetch
  rw [fetchByte_ok h]
  dsimp only
  cases hr : findRow (Memory.read s.mem s.pc.toNat) with
  | none => exact .inl ⟨rfl, rfl⟩
  | some r =>
    refine .inr ⟨⟨r, rfl⟩, ?_⟩
    rcases fetchOperand_cases r.mode (s.advance 1) with ⟨bs, h1, h2⟩ | ⟨e, k, hk, h1, h2⟩
    · have hd : ∃ i, decode (Memory.read s.mem s.pc.toNat :: bs) = .ok (i, []) := by
        unfold decode
        dsimp only
        rw [hr]
        dsimp only
        rcases bs with _ | ⟨b0, _ | ⟨b1, _ | ⟨b2, bs⟩⟩⟩
        · simp at h2; simp [← h2]
        · simp at h2; simp [← h2]
        · simp at h2; simp [← h2]
        · exfalso; simp at h2; cases hm : r.mode <;> simp [hm, Mode.operandBytes] at h2
      obtain ⟨i, hi⟩ := hd
      simp only [h1, hi]; exact .inl ⟨i, decode_opcode hi, rfl⟩
    · simp only [h1]; refine .inr ⟨e, k + 1, by omega, by omega, ?_, by simpa [Unbacked] using h2⟩
      have : s.pc + 1#16 + BitVec.ofNat 16 k = s.pc + BitVec.ofNat 16 (k + 1) := by
        rw [BitVec.ofNat_add, BitVec.add_assoc, BitVec.add_comm 1#16]
      simp [State.advance, State.setPc, this]

/-- The halt condition as its three conditions (40_sequencer.md R102). -/
theorem haltCondition_iff (s : State) : haltCondition s = true ↔
    (s.haltReq = true ∨ (∃ n, s.budget = some n ∧ n ≤ s.steps) ∨ s.memSize ≤ s.pc.toNat) := by
  unfold haltCondition budgetSpent
  cases s.budget <;> simp [or_assoc]

/-- A machine ready to execute has PC below MEM_SIZE. -/
theorem ready_pc {s : State} (h : Ready s) : s.pc.toNat < s.memSize := by
  have h2 : haltCondition s = false := h.2
  unfold haltCondition at h2
  simp at h2
  exact h2.2

theorem step_ready {s : State} (h : Ready s) :
    step s = match fetch s with
      | .error f => .fault f
      | .ok i => exec i s := by
  unfold step
  rw [h.1]
  dsimp only
  rw [h.2]
  rfl

/-- Everything a step can be. -/
theorem step_cases (s : State) :
    (s.run = .halted ∧ step s = .next s) ∨
    (∃ e, s.run = .faulted e ∧ step s = .fault (.alreadyFaulted e s)) ∨
    (s.run = .running ∧ haltCondition s = true ∧ step s = .next (s.setRun .halted)) ∨
    (Ready s ∧
      ((findRow (Memory.read s.mem s.pc.toNat) = none ∧
        step s = .fault (raise (.illegalOpcode (Memory.read s.mem s.pc.toNat) s.pc) (s.advance 1))) ∨
      (∃ r, findRow (Memory.read s.mem s.pc.toNat) = some r) ∧
        ((∃ i, i.opcode = Memory.read s.mem s.pc.toNat ∧ step s = exec i s) ∨
          ∃ e k, 1 ≤ k ∧ k ≤ 2 ∧ step s = .fault (raise e (s.advance k)) ∧ Unbacked s e))) := by
  cases hr : s.run with
  | halted => exact .inl ⟨rfl, by simp [step, hr]⟩
  | faulted e => exact .inr (.inl ⟨e, rfl, by simp [step, hr]⟩)
  | running =>
    refine .inr (.inr ?_)
    cases hh : haltCondition s with
    | true => exact .inl ⟨rfl, rfl, by simp [step, hr, hh]⟩
    | false =>
      have hd : Ready s := ⟨hr, hh⟩
      refine .inr ⟨hd, ?_⟩
      rw [step_ready hd]
      rcases fetch_cases s (ready_pc hd) with ⟨h1, h2⟩ | ⟨h1, ⟨i, hi, h2⟩ | ⟨e, k, hk, hk', h2, h3⟩⟩
      · exact .inl ⟨h1, by simp [h2]⟩
      · exact .inr ⟨h1, .inl ⟨i, hi, by simp [h2]⟩⟩
      · exact .inr ⟨h1, .inr ⟨e, k, hk, hk', by simp [h2], h3⟩⟩

end Sys2Proof.Laws
end

