-- ==== Sys2Proof/Tests/Slice0.lean ====
section
/-! SUPPORT. The model's own tests: ill-formed forms, words written out from 30_encoding.md R83's table, single steps
with the expected results of 95_test_vectors.md, and a witness for every statement that has hypotheses. -/
namespace Sys2Proof.Tests

open Sys2Proof.Machine Sys2Proof.Claims

/-! ## Well-formedness (42_load_store.md to 49_flags_transfer_nop.md, the Encoding lines) -/

/-- STA has no immediate mode (R158), LDX no zero page,X (R156), LDY no zero page,Y (R157), STX no absolute,Y (R159),
STY no absolute,X (R160), ADC no accumulator form (R171). -/
theorem test_wf_refuses_loads_and_stores :
    Form.wf ⟨.sta, .immediate 0⟩ = false ∧ Form.wf ⟨.ldx, .memory (.zeroPageX 0)⟩ = false ∧
    Form.wf ⟨.ldy, .memory (.zeroPageY 0)⟩ = false ∧ Form.wf ⟨.stx, .memory (.absoluteY 0)⟩ = false ∧
    Form.wf ⟨.sty, .memory (.absoluteX 0)⟩ = false ∧ Form.wf ⟨.adc, .accumulator⟩ = false := by decide

/-- INC has no accumulator form (R210), ASL no (zero page),Y (R190), CPX no zero page,X (R232), BIT no immediate (R234),
a branch no absolute form (R251), JMP no (zero page,X) (R272), JSR no indirect form (R274), PHA and NOP no operand. -/
theorem test_wf_refuses_the_others :
    Form.wf ⟨.inc, .accumulator⟩ = false ∧ Form.wf ⟨.asl, .memory (.indirectIndexed 0)⟩ = false ∧
    Form.wf ⟨.cpx, .memory (.zeroPageX 0)⟩ = false ∧ Form.wf ⟨.bit, .immediate 0⟩ = false ∧
    Form.wf ⟨.bcc, .memory (.absolute 0)⟩ = false ∧ Form.wf ⟨.jmp, .memory (.indexedIndirect 0)⟩ = false ∧
    Form.wf ⟨.jsr, .indirect 0⟩ = false ∧ Form.wf ⟨.pha, .accumulator⟩ = false ∧
    Form.wf ⟨.nop, .immediate 0⟩ = false := by decide

/-- Every form of an instruction passes: LDX's zero page,Y, ASL's accumulator form, JMP's indirect form. -/
theorem test_wf_accepts :
    Instr.wf (.ldxZpY 0xFF) = true ∧ Instr.wf .aslAcc = true ∧ Instr.wf (.jmpInd 0xFFFF) = true := by decide

/-! ## Decoding, by the words of 30_encoding.md R83's table and the byte order of R82 -/

/-- The defined opcode bytes 0x00 to 0x0F. -/
theorem test_decode_0 :
    decode [0x00] = .ok (.brk, []) ∧
    decode [0x01, 0x9A] = .ok (.oraIndX 0x9A, []) ∧
    decode [0x05, 0x9A] = .ok (.oraZp 0x9A, []) ∧
    decode [0x06, 0x9A] = .ok (.aslZp 0x9A, []) ∧
    decode [0x08] = .ok (.php, []) ∧
    decode [0x09, 0x9A] = .ok (.oraImm 0x9A, []) ∧
    decode [0x0A] = .ok (.aslAcc, []) ∧
    decode [0x0D, 0x34, 0x12] = .ok (.oraAbs 0x1234, []) ∧
    decode [0x0E, 0x34, 0x12] = .ok (.aslAbs 0x1234, []) := by
  refine ⟨rfl, rfl, rfl, rfl, rfl, rfl, rfl, rfl, rfl⟩

/-- The defined opcode bytes 0x10 to 0x1F. -/
theorem test_decode_1 :
    decode [0x10, 0x9A] = .ok (.bpl 0x9A, []) ∧
    decode [0x11, 0x9A] = .ok (.oraIndY 0x9A, []) ∧
    decode [0x15, 0x9A] = .ok (.oraZpX 0x9A, []) ∧
    decode [0x16, 0x9A] = .ok (.aslZpX 0x9A, []) ∧
    decode [0x18] = .ok (.clc, []) ∧
    decode [0x19, 0x34, 0x12] = .ok (.oraAbsY 0x1234, []) ∧
    decode [0x1D, 0x34, 0x12] = .ok (.oraAbsX 0x1234, []) ∧
    decode [0x1E, 0x34, 0x12] = .ok (.aslAbsX 0x1234, []) := by
  refine ⟨rfl, rfl, rfl, rfl, rfl, rfl, rfl, rfl⟩

/-- The defined opcode bytes 0x20 to 0x2F. -/
theorem test_decode_2 :
    decode [0x20, 0x34, 0x12] = .ok (.jsr 0x1234, []) ∧
    decode [0x21, 0x9A] = .ok (.andIndX 0x9A, []) ∧
    decode [0x24, 0x9A] = .ok (.bitZp 0x9A, []) ∧
    decode [0x25, 0x9A] = .ok (.andZp 0x9A, []) ∧
    decode [0x26, 0x9A] = .ok (.rolZp 0x9A, []) ∧
    decode [0x28] = .ok (.plp, []) ∧
    decode [0x29, 0x9A] = .ok (.andImm 0x9A, []) ∧
    decode [0x2A] = .ok (.rolAcc, []) ∧
    decode [0x2C, 0x34, 0x12] = .ok (.bitAbs 0x1234, []) ∧
    decode [0x2D, 0x34, 0x12] = .ok (.andAbs 0x1234, []) ∧
    decode [0x2E, 0x34, 0x12] = .ok (.rolAbs 0x1234, []) := by
  refine ⟨rfl, rfl, rfl, rfl, rfl, rfl, rfl, rfl, rfl, rfl, rfl⟩

/-- The defined opcode bytes 0x30 to 0x3F. -/
theorem test_decode_3 :
    decode [0x30, 0x9A] = .ok (.bmi 0x9A, []) ∧
    decode [0x31, 0x9A] = .ok (.andIndY 0x9A, []) ∧
    decode [0x35, 0x9A] = .ok (.andZpX 0x9A, []) ∧
    decode [0x36, 0x9A] = .ok (.rolZpX 0x9A, []) ∧
    decode [0x38] = .ok (.sec, []) ∧
    decode [0x39, 0x34, 0x12] = .ok (.andAbsY 0x1234, []) ∧
    decode [0x3D, 0x34, 0x12] = .ok (.andAbsX 0x1234, []) ∧
    decode [0x3E, 0x34, 0x12] = .ok (.rolAbsX 0x1234, []) := by
  refine ⟨rfl, rfl, rfl, rfl, rfl, rfl, rfl, rfl⟩

/-- The defined opcode bytes 0x40 to 0x4F. -/
theorem test_decode_4 :
    decode [0x40] = .ok (.rti, []) ∧
    decode [0x41, 0x9A] = .ok (.eorIndX 0x9A, []) ∧
    decode [0x45, 0x9A] = .ok (.eorZp 0x9A, []) ∧
    decode [0x46, 0x9A] = .ok (.lsrZp 0x9A, []) ∧
    decode [0x48] = .ok (.pha, []) ∧
    decode [0x49, 0x9A] = .ok (.eorImm 0x9A, []) ∧
    decode [0x4A] = .ok (.lsrAcc, []) ∧
    decode [0x4C, 0x34, 0x12] = .ok (.jmpAbs 0x1234, []) ∧
    decode [0x4D, 0x34, 0x12] = .ok (.eorAbs 0x1234, []) ∧
    decode [0x4E, 0x34, 0x12] = .ok (.lsrAbs 0x1234, []) := by
  refine ⟨rfl, rfl, rfl, rfl, rfl, rfl, rfl, rfl, rfl, rfl⟩

/-- The defined opcode bytes 0x50 to 0x5F. -/
theorem test_decode_5 :
    decode [0x50, 0x9A] = .ok (.bvc 0x9A, []) ∧
    decode [0x51, 0x9A] = .ok (.eorIndY 0x9A, []) ∧
    decode [0x55, 0x9A] = .ok (.eorZpX 0x9A, []) ∧
    decode [0x56, 0x9A] = .ok (.lsrZpX 0x9A, []) ∧
    decode [0x58] = .ok (.cli, []) ∧
    decode [0x59, 0x34, 0x12] = .ok (.eorAbsY 0x1234, []) ∧
    decode [0x5D, 0x34, 0x12] = .ok (.eorAbsX 0x1234, []) ∧
    decode [0x5E, 0x34, 0x12] = .ok (.lsrAbsX 0x1234, []) := by
  refine ⟨rfl, rfl, rfl, rfl, rfl, rfl, rfl, rfl⟩

/-- The defined opcode bytes 0x60 to 0x6F. -/
theorem test_decode_6 :
    decode [0x60] = .ok (.rts, []) ∧
    decode [0x61, 0x9A] = .ok (.adcIndX 0x9A, []) ∧
    decode [0x65, 0x9A] = .ok (.adcZp 0x9A, []) ∧
    decode [0x66, 0x9A] = .ok (.rorZp 0x9A, []) ∧
    decode [0x68] = .ok (.pla, []) ∧
    decode [0x69, 0x9A] = .ok (.adcImm 0x9A, []) ∧
    decode [0x6A] = .ok (.rorAcc, []) ∧
    decode [0x6C, 0x34, 0x12] = .ok (.jmpInd 0x1234, []) ∧
    decode [0x6D, 0x34, 0x12] = .ok (.adcAbs 0x1234, []) ∧
    decode [0x6E, 0x34, 0x12] = .ok (.rorAbs 0x1234, []) := by
  refine ⟨rfl, rfl, rfl, rfl, rfl, rfl, rfl, rfl, rfl, rfl⟩

/-- The defined opcode bytes 0x70 to 0x7F. -/
theorem test_decode_7 :
    decode [0x70, 0x9A] = .ok (.bvs 0x9A, []) ∧
    decode [0x71, 0x9A] = .ok (.adcIndY 0x9A, []) ∧
    decode [0x75, 0x9A] = .ok (.adcZpX 0x9A, []) ∧
    decode [0x76, 0x9A] = .ok (.rorZpX 0x9A, []) ∧
    decode [0x78] = .ok (.sei, []) ∧
    decode [0x79, 0x34, 0x12] = .ok (.adcAbsY 0x1234, []) ∧
    decode [0x7D, 0x34, 0x12] = .ok (.adcAbsX 0x1234, []) ∧
    decode [0x7E, 0x34, 0x12] = .ok (.rorAbsX 0x1234, []) := by
  refine ⟨rfl, rfl, rfl, rfl, rfl, rfl, rfl, rfl⟩

/-- The defined opcode bytes 0x80 to 0x8F. -/
theorem test_decode_8 :
    decode [0x81, 0x9A] = .ok (.staIndX 0x9A, []) ∧
    decode [0x84, 0x9A] = .ok (.styZp 0x9A, []) ∧
    decode [0x85, 0x9A] = .ok (.staZp 0x9A, []) ∧
    decode [0x86, 0x9A] = .ok (.stxZp 0x9A, []) ∧
    decode [0x88] = .ok (.dey, []) ∧
    decode [0x8A] = .ok (.txa, []) ∧
    decode [0x8C, 0x34, 0x12] = .ok (.styAbs 0x1234, []) ∧
    decode [0x8D, 0x34, 0x12] = .ok (.staAbs 0x1234, []) ∧
    decode [0x8E, 0x34, 0x12] = .ok (.stxAbs 0x1234, []) := by
  refine ⟨rfl, rfl, rfl, rfl, rfl, rfl, rfl, rfl, rfl⟩

/-- The defined opcode bytes 0x90 to 0x9F. -/
theorem test_decode_9 :
    decode [0x90, 0x9A] = .ok (.bcc 0x9A, []) ∧
    decode [0x91, 0x9A] = .ok (.staIndY 0x9A, []) ∧
    decode [0x94, 0x9A] = .ok (.styZpX 0x9A, []) ∧
    decode [0x95, 0x9A] = .ok (.staZpX 0x9A, []) ∧
    decode [0x96, 0x9A] = .ok (.stxZpY 0x9A, []) ∧
    decode [0x98] = .ok (.tya, []) ∧
    decode [0x99, 0x34, 0x12] = .ok (.staAbsY 0x1234, []) ∧
    decode [0x9A] = .ok (.txs, []) ∧
    decode [0x9D, 0x34, 0x12] = .ok (.staAbsX 0x1234, []) := by
  refine ⟨rfl, rfl, rfl, rfl, rfl, rfl, rfl, rfl, rfl⟩

/-- The defined opcode bytes 0xA0 to 0xAF. -/
theorem test_decode_a :
    decode [0xA0, 0x9A] = .ok (.ldyImm 0x9A, []) ∧
    decode [0xA1, 0x9A] = .ok (.ldaIndX 0x9A, []) ∧
    decode [0xA2, 0x9A] = .ok (.ldxImm 0x9A, []) ∧
    decode [0xA4, 0x9A] = .ok (.ldyZp 0x9A, []) ∧
    decode [0xA5, 0x9A] = .ok (.ldaZp 0x9A, []) ∧
    decode [0xA6, 0x9A] = .ok (.ldxZp 0x9A, []) ∧
    decode [0xA8] = .ok (.tay, []) ∧
    decode [0xA9, 0x9A] = .ok (.ldaImm 0x9A, []) ∧
    decode [0xAA] = .ok (.tax, []) ∧
    decode [0xAC, 0x34, 0x12] = .ok (.ldyAbs 0x1234, []) ∧
    decode [0xAD, 0x34, 0x12] = .ok (.ldaAbs 0x1234, []) ∧
    decode [0xAE, 0x34, 0x12] = .ok (.ldxAbs 0x1234, []) := by
  refine ⟨rfl, rfl, rfl, rfl, rfl, rfl, rfl, rfl, rfl, rfl, rfl, rfl⟩

/-- The defined opcode bytes 0xB0 to 0xBF. -/
theorem test_decode_b :
    decode [0xB0, 0x9A] = .ok (.bcs 0x9A, []) ∧
    decode [0xB1, 0x9A] = .ok (.ldaIndY 0x9A, []) ∧
    decode [0xB4, 0x9A] = .ok (.ldyZpX 0x9A, []) ∧
    decode [0xB5, 0x9A] = .ok (.ldaZpX 0x9A, []) ∧
    decode [0xB6, 0x9A] = .ok (.ldxZpY 0x9A, []) ∧
    decode [0xB8] = .ok (.clv, []) ∧
    decode [0xB9, 0x34, 0x12] = .ok (.ldaAbsY 0x1234, []) ∧
    decode [0xBA] = .ok (.tsx, []) ∧
    decode [0xBC, 0x34, 0x12] = .ok (.ldyAbsX 0x1234, []) ∧
    decode [0xBD, 0x34, 0x12] = .ok (.ldaAbsX 0x1234, []) ∧
    decode [0xBE, 0x34, 0x12] = .ok (.ldxAbsY 0x1234, []) := by
  refine ⟨rfl, rfl, rfl, rfl, rfl, rfl, rfl, rfl, rfl, rfl, rfl⟩

/-- The defined opcode bytes 0xC0 to 0xCF. -/
theorem test_decode_c :
    decode [0xC0, 0x9A] = .ok (.cpyImm 0x9A, []) ∧
    decode [0xC1, 0x9A] = .ok (.cmpIndX 0x9A, []) ∧
    decode [0xC4, 0x9A] = .ok (.cpyZp 0x9A, []) ∧
    decode [0xC5, 0x9A] = .ok (.cmpZp 0x9A, []) ∧
    decode [0xC6, 0x9A] = .ok (.decZp 0x9A, []) ∧
    decode [0xC8] = .ok (.iny, []) ∧
    decode [0xC9, 0x9A] = .ok (.cmpImm 0x9A, []) ∧
    decode [0xCA] = .ok (.dex, []) ∧
    decode [0xCC, 0x34, 0x12] = .ok (.cpyAbs 0x1234, []) ∧
    decode [0xCD, 0x34, 0x12] = .ok (.cmpAbs 0x1234, []) ∧
    decode [0xCE, 0x34, 0x12] = .ok (.decAbs 0x1234, []) := by
  refine ⟨rfl, rfl, rfl, rfl, rfl, rfl, rfl, rfl, rfl, rfl, rfl⟩

/-- The defined opcode bytes 0xD0 to 0xDF. -/
theorem test_decode_d :
    decode [0xD0, 0x9A] = .ok (.bne 0x9A, []) ∧
    decode [0xD1, 0x9A] = .ok (.cmpIndY 0x9A, []) ∧
    decode [0xD5, 0x9A] = .ok (.cmpZpX 0x9A, []) ∧
    decode [0xD6, 0x9A] = .ok (.decZpX 0x9A, []) ∧
    decode [0xD8] = .ok (.cld, []) ∧
    decode [0xD9, 0x34, 0x12] = .ok (.cmpAbsY 0x1234, []) ∧
    decode [0xDD, 0x34, 0x12] = .ok (.cmpAbsX 0x1234, []) ∧
    decode [0xDE, 0x34, 0x12] = .ok (.decAbsX 0x1234, []) := by
  refine ⟨rfl, rfl, rfl, rfl, rfl, rfl, rfl, rfl⟩

/-- The defined opcode bytes 0xE0 to 0xEF. -/
theorem test_decode_e :
    decode [0xE0, 0x9A] = .ok (.cpxImm 0x9A, []) ∧
    decode [0xE1, 0x9A] = .ok (.sbcIndX 0x9A, []) ∧
    decode [0xE4, 0x9A] = .ok (.cpxZp 0x9A, []) ∧
    decode [0xE5, 0x9A] = .ok (.sbcZp 0x9A, []) ∧
    decode [0xE6, 0x9A] = .ok (.incZp 0x9A, []) ∧
    decode [0xE8] = .ok (.inx, []) ∧
    decode [0xE9, 0x9A] = .ok (.sbcImm 0x9A, []) ∧
    decode [0xEA] = .ok (.nop, []) ∧
    decode [0xEC, 0x34, 0x12] = .ok (.cpxAbs 0x1234, []) ∧
    decode [0xED, 0x34, 0x12] = .ok (.sbcAbs 0x1234, []) ∧
    decode [0xEE, 0x34, 0x12] = .ok (.incAbs 0x1234, []) := by
  refine ⟨rfl, rfl, rfl, rfl, rfl, rfl, rfl, rfl, rfl, rfl, rfl⟩

/-- The defined opcode bytes 0xF0 to 0xFF. -/
theorem test_decode_f :
    decode [0xF0, 0x9A] = .ok (.beq 0x9A, []) ∧
    decode [0xF1, 0x9A] = .ok (.sbcIndY 0x9A, []) ∧
    decode [0xF5, 0x9A] = .ok (.sbcZpX 0x9A, []) ∧
    decode [0xF6, 0x9A] = .ok (.incZpX 0x9A, []) ∧
    decode [0xF8] = .ok (.sed, []) ∧
    decode [0xF9, 0x34, 0x12] = .ok (.sbcAbsY 0x1234, []) ∧
    decode [0xFD, 0x34, 0x12] = .ok (.sbcAbsX 0x1234, []) ∧
    decode [0xFE, 0x34, 0x12] = .ok (.incAbsX 0x1234, []) := by
  refine ⟨rfl, rfl, rfl, rfl, rfl, rfl, rfl, rfl⟩

/-- A word of the opcode table as the host numbers it: bit 0 is the first byte's lowest bit (30_encoding.md R80). -/
theorem test_decode_table_word :
    decodeTableWord 8 0xEA = some .nop ∧ decodeTableWord 8 0xA9 = some (.ldaImm 0) ∧
    decodeTableWord 24 0x1234AD = some (.ldaAbs 0x1234) ∧ decodeTableWord 8 0x02 = none := ⟨rfl, rfl, rfl, rfl⟩

/-- A missing operand byte and an undefined opcode byte are refused by name (30_encoding.md R81, R85). -/
theorem test_decode_refuses :
    decode [] = .error .truncated ∧ decode [0xAD, 0x34] = .error .truncated ∧
    decode [0xFF, 0x00] = .error (.illegalOpcode 0xFF) := ⟨rfl, rfl, rfl⟩

/-! ## Single steps (95_test_vectors.md, level 2) -/

/-- The reset state with PC, code at PC and some bytes of memory set. -/
def start (pc : Addr) (code : List Byte) (data : List (Nat × Byte)) : State :=
  { State.reset with
    pc := pc
    mem := placeBytes code pc (data.foldl (fun m c => Memory.write m c.1 c.2) []) }

/-- What a completed step leaves, as far as a test looks. -/
def after {α : Type} (s : State) (view : State → α) : Option α :=
  match step s with
  | .next t => some (view t)
  | _ => none

/-- The record a step stops with, and what it leaves. -/
def stop {α : Type} (s : State) (view : State → α) : Option (FaultRecord × α) :=
  match step s with
  | .fault (.raised e t) => some (e, view t)
  | _ => none

/-- R155: `LDA #$00` (Z=1). -/
theorem test_ldaImm :
    after { start 0x0200 [0xA9, 0x00] [] with a := 0x55 }
      (fun t => (t.a, t.p, t.pc, t.cyc)) = some (0x00, 0x22, 0x0202, 2) := by decide

/-- R155: `LDA #$80` (N=1). -/
theorem test_ldaImm_2 :
    after (start 0x0200 [0xA9, 0x80] [])
      (fun t => (t.a, t.p, t.pc, t.cyc)) = some (0x80, 0xA0, 0x0202, 2) := by decide

/-- R155: `LDA $F0,X` (zero page,X wraps to 0x0010). -/
theorem test_ldaZpX :
    after { start 0x0200 [0xB5, 0xF0] [(0x0010, 0x7F)] with x := 0x20 }
      (fun t => (t.a, t.pc, t.cyc)) = some (0x7F, 0x0202, 4) := by decide

/-- R155: `LDA $12F0,X` (page crossed: 4+1). -/
theorem test_ldaAbsX :
    after { start 0x0200 [0xBD, 0xF0, 0x12] [(0x1310, 0x01)] with x := 0x20 }
      (fun t => (t.a, t.pc, t.cyc)) = some (0x01, 0x0203, 5) := by decide

/-- R155: `LDA $1200,Y` (not crossed). -/
theorem test_ldaAbsY :
    after { start 0x0200 [0xB9, 0x00, 0x12] [(0x12FF, 0x01)] with y := 0xFF }
      (fun t => (t.a, t.pc, t.cyc)) = some (0x01, 0x0203, 4) := by decide

/-- R155: `LDA ($FF,X)` (pointer high byte from 0x0000 (D4)). -/
theorem test_ldaIndX :
    after { start 0x0200 [0xA1, 0xFF] [(0x00FF, 0x34), (0x0000, 0x12), (0x1234, 0x99)] with x := 0x00 }
      (fun t => (t.a, t.p, t.pc, t.cyc)) = some (0x99, 0xA0, 0x0202, 6) := by decide

/-- R155: `LDA ($86),Y` (0x40F8+0x10 crosses: 5+1; Z=1). -/
theorem test_ldaIndY :
    after { start 0x0200 [0xB1, 0x86] [(0x0086, 0xF8), (0x0087, 0x40), (0x4108, 0x00)] with y := 0x10 }
      (fun t => (t.p, t.pc, t.cyc)) = some (0x22, 0x0202, 6) := by decide

/-- R156: `LDX $FF,Y` (zero page,Y wraps). -/
theorem test_ldxZpY :
    after { start 0x0200 [0xB6, 0xFF] [(0x0000, 0xFE)] with y := 0x01 }
      (fun t => (t.x, t.p, t.pc, t.cyc)) = some (0xFE, 0xA0, 0x0202, 4) := by decide

/-- R157: `LDY #$01` (clears N and Z). -/
theorem test_ldyImm :
    after { start 0x0200 [0xA0, 0x01] [] with p := 0xA2 }
      (fun t => (t.y, t.p, t.pc, t.cyc)) = some (0x01, 0x20, 0x0202, 2) := by decide

/-- R158: `STA $0300` (a store writes no flag). -/
theorem test_staAbs :
    after { start 0x0200 [0x8D, 0x00, 0x03] [] with a := 0x00, p := 0x20 }
      (fun t => (t.pc, Memory.read t.mem 0x0300, t.cyc)) = some (0x0203, 0x00, 4) := by decide

/-- R158: `STA $12F0,X` (fixed 5 cycles, crossing adds nothing). -/
theorem test_staAbsX :
    after { start 0x0200 [0x9D, 0xF0, 0x12] [] with a := 0x42, x := 0x20 }
      (fun t => (t.pc, Memory.read t.mem 0x1310, t.cyc)) = some (0x0203, 0x42, 5) := by decide

/-- R158: `STA ($10),Y` (ea wraps 0xFFFF+1 to 0x0000). -/
theorem test_staIndY :
    after { start 0x0200 [0x91, 0x10] [(0x0010, 0xFF), (0x0011, 0xFF)] with a := 0x42, y := 0x01 }
      (fun t => (t.pc, Memory.read t.mem 0x0000, t.cyc)) = some (0x0202, 0x42, 6) := by decide

/-- R159: `STX $10,Y` ((0x10+0xF5) & 0xFF). -/
theorem test_stxZpY :
    after { start 0x0200 [0x96, 0x10] [] with x := 0x80, y := 0xF5 }
      (fun t => (t.pc, Memory.read t.mem 0x0005, t.cyc)) = some (0x0202, 0x80, 4) := by decide

/-- R160: `STY $FFFF` (top byte of memory). -/
theorem test_styAbs :
    after { start 0x0200 [0x8C, 0xFF, 0xFF] [] with y := 0x11 }
      (fun t => (t.pc, Memory.read t.mem 0xFFFF, t.cyc)) = some (0x0203, 0x11, 4) := by decide

/-- R171: `ADC #$80` (source example E3). -/
theorem test_adcImm :
    after { start 0x0200 [0x69, 0x80] [] with a := 0x80 }
      (fun t => (t.a, t.p, t.pc, t.cyc)) = some (0x00, 0x63, 0x0202, 2) := by decide

/-- R171: `ADC #$FF` (0x1FF: A stays 0xFF, C=1). -/
theorem test_adcImm_2 :
    after { start 0x0200 [0x69, 0xFF] [] with a := 0xFF, p := 0x21 }
      (fun t => (t.p, t.pc, t.cyc)) = some (0xA1, 0x0202, 2) := by decide

/-- R172: `SBC #$01` (borrow: C=0). -/
theorem test_sbcImm :
    after { start 0x0200 [0xE9, 0x01] [] with a := 0x00, p := 0x21 }
      (fun t => (t.a, t.p, t.pc, t.cyc)) = some (0xFF, 0xA0, 0x0202, 2) := by decide

/-- R172: `SBC #$FF` (127-(-1) overflows: V=1, C=0). -/
theorem test_sbcImm_2 :
    after { start 0x0200 [0xE9, 0xFF] [] with a := 0x7F, p := 0x21 }
      (fun t => (t.a, t.p, t.pc, t.cyc)) = some (0x80, 0xE0, 0x0202, 2) := by decide

/-- R175: `AND #$0F` (Z=1). -/
theorem test_andImm :
    after { start 0x0200 [0x29, 0x0F] [] with a := 0xF0 }
      (fun t => (t.a, t.p, t.pc, t.cyc)) = some (0x00, 0x22, 0x0202, 2) := by decide

/-- R176: `ORA #$80` (N=1). -/
theorem test_oraImm :
    after { start 0x0200 [0x09, 0x80] [] with a := 0x01 }
      (fun t => (t.a, t.p, t.pc, t.cyc)) = some (0x81, 0xA0, 0x0202, 2) := by decide

/-- R177: `EOR #$FF` (C and V unchanged, N cleared, Z set). -/
theorem test_eorImm :
    after { start 0x0200 [0x49, 0xFF] [] with a := 0xFF, p := 0xE1 }
      (fun t => (t.a, t.p, t.pc, t.cyc)) = some (0x00, 0x63, 0x0202, 2) := by decide

/-- R190: `ASL A` (bit 7 to C). -/
theorem test_aslAcc :
    after { start 0x0200 [0x0A] [] with a := 0x81 }
      (fun t => (t.a, t.p, t.pc, t.cyc)) = some (0x02, 0x21, 0x0201, 2) := by decide

/-- R190: `ASL $10` (memory form, one write). -/
theorem test_aslZp :
    after (start 0x0200 [0x06, 0x10] [(0x0010, 0x40)])
      (fun t => (t.p, t.pc, Memory.read t.mem 0x0010, t.cyc)) = some (0xA0, 0x0202, 0x80, 5) := by decide

/-- R191: `LSR A` (N always 0, C=1, Z=1). -/
theorem test_lsrAcc :
    after { start 0x0200 [0x4A] [] with a := 0x01, p := 0xA0 }
      (fun t => (t.a, t.p, t.pc, t.cyc)) = some (0x00, 0x23, 0x0201, 2) := by decide

/-- R192: `ROL A` (old C into bit 0, bit 7 to C). -/
theorem test_rolAcc :
    after { start 0x0200 [0x2A] [] with a := 0x80, p := 0x21 }
      (fun t => (t.a, t.pc, t.cyc)) = some (0x01, 0x0201, 2) := by decide

/-- R193: `ROR A` (old C into bit 7, C=0). -/
theorem test_rorAcc :
    after { start 0x0200 [0x6A] [] with a := 0x00, p := 0x21 }
      (fun t => (t.a, t.p, t.pc, t.cyc)) = some (0x80, 0xA0, 0x0201, 2) := by decide

/-- R193: `ROR $12F0,X` (fixed 7 cycles although crossed). -/
theorem test_rorAbsX :
    after { start 0x0200 [0x7E, 0xF0, 0x12] [(0x1310, 0x01)] with x := 0x20 }
      (fun t => (t.p, t.pc, Memory.read t.mem 0x1310, t.cyc)) = some (0x23, 0x0203, 0x00, 7) := by decide

/-- R210: `INC $10` (wraps, C unchanged). -/
theorem test_incZp :
    after (start 0x0200 [0xE6, 0x10] [(0x0010, 0xFF)])
      (fun t => (t.p, t.pc, Memory.read t.mem 0x0010, t.cyc)) = some (0x22, 0x0202, 0x00, 5) := by decide

/-- R211: `DEC $10` (wraps). -/
theorem test_decZp :
    after (start 0x0200 [0xC6, 0x10] [(0x0010, 0x00)])
      (fun t => (t.p, t.pc, Memory.read t.mem 0x0010, t.cyc)) = some (0xA0, 0x0202, 0xFF, 5) := by decide

/-- R212: `INX` (V unchanged). -/
theorem test_inx :
    after { start 0x0200 [0xE8] [] with x := 0x7F }
      (fun t => (t.x, t.p, t.pc, t.cyc)) = some (0x80, 0xA0, 0x0201, 2) := by decide

/-- R213: `INY`. -/
theorem test_iny :
    after { start 0x0200 [0xC8] [] with y := 0xFF }
      (fun t => (t.y, t.p, t.pc, t.cyc)) = some (0x00, 0x22, 0x0201, 2) := by decide

/-- R214: `DEX`. -/
theorem test_dex :
    after { start 0x0200 [0xCA] [] with x := 0x01 }
      (fun t => (t.x, t.p, t.pc, t.cyc)) = some (0x00, 0x22, 0x0201, 2) := by decide

/-- R215: `DEY`. -/
theorem test_dey :
    after { start 0x0200 [0x88] [] with y := 0x00 }
      (fun t => (t.y, t.p, t.pc, t.cyc)) = some (0xFF, 0xA0, 0x0201, 2) := by decide

/-- R231: `CMP #$11` (less: C=0, N from 0xFF). -/
theorem test_cmpImm :
    after { start 0x0200 [0xC9, 0x11] [] with a := 0x10 }
      (fun t => (t.p, t.pc, t.cyc)) = some (0xA0, 0x0202, 2) := by decide

/-- R231: `CMP #$01` (unsigned greater: C=1; N from 0x8F). -/
theorem test_cmpImm_2 :
    after { start 0x0200 [0xC9, 0x01] [] with a := 0x90 }
      (fun t => (t.p, t.pc, t.cyc)) = some (0xA1, 0x0202, 2) := by decide

/-- R232: `CPX #$FF` (C cleared, V unchanged). -/
theorem test_cpxImm :
    after { start 0x0200 [0xE0, 0xFF] [] with x := 0x00, p := 0x61 }
      (fun t => (t.p, t.pc, t.cyc)) = some (0x60, 0x0202, 2) := by decide

/-- R233: `CPY $10` (0x80 >= 0x7F, difference 0x01). -/
theorem test_cpyZp :
    after { start 0x0200 [0xC4, 0x10] [(0x0010, 0x7F)] with y := 0x80 }
      (fun t => (t.p, t.pc, t.cyc)) = some (0x21, 0x0202, 3) := by decide

/-- R234: `BIT $10` (N, V from m although Z=1). -/
theorem test_bitZp :
    after { start 0x0200 [0x24, 0x10] [(0x0010, 0xC0)] with a := 0x00 }
      (fun t => (t.p, t.pc, t.cyc)) = some (0xE2, 0x0202, 3) := by decide

/-- R234: `BIT $1000` (N, V, Z all cleared). -/
theorem test_bitAbs :
    after { start 0x0200 [0x2C, 0x00, 0x10] [(0x1000, 0x01)] with a := 0xFF, p := 0xE2 }
      (fun t => (t.p, t.pc, t.cyc)) = some (0x20, 0x0203, 4) := by decide

/-- R251: `BCC +5` (taken: 2+1). -/
theorem test_bcc :
    after { start 0x0200 [0x90, 0x05] [] with p := 0x20 }
      (fun t => (t.pc, t.cyc)) = some (0x0207, 3) := by decide

/-- R251: `BCC +5` (not taken). -/
theorem test_bcc_2 :
    after { start 0x0200 [0x90, 0x05] [] with p := 0x21 }
      (fun t => (t.pc, t.cyc)) = some (0x0202, 2) := by decide

/-- R252: `BCS -5` (taken backwards across a page: 2+1+1). -/
theorem test_bcs :
    after { start 0x0200 [0xB0, 0xFB] [] with p := 0x21 }
      (fun t => (t.pc, t.cyc)) = some (0x01FD, 4) := by decide

/-- R253: `BEQ -2` (targets itself). -/
theorem test_beq :
    after { start 0x0200 [0xF0, 0xFE] [] with p := 0x22 }
      (fun t => (t.pc, t.cyc)) = some (0x0200, 3) := by decide

/-- R254: `BNE +0` (taken to the next instruction: still 3 cycles). -/
theorem test_bne :
    after { start 0x0200 [0xD0, 0x00] [] with p := 0x20 }
      (fun t => (t.pc, t.cyc)) = some (0x0202, 3) := by decide

/-- R255: `BMI +$7F` (largest forward offset, crosses: 2+1+1). -/
theorem test_bmi :
    after { start 0x02F0 [0x30, 0x7F] [] with p := 0xA0 }
      (fun t => (t.pc, t.cyc)) = some (0x0371, 4) := by decide

/-- R256: `BPL -$80` (largest backward offset, crosses). -/
theorem test_bpl :
    after { start 0x0240 [0x10, 0x80] [] with p := 0x20 }
      (fun t => (t.pc, t.cyc)) = some (0x01C2, 4) := by decide

/-- R257: `BVC +4` (not taken). -/
theorem test_bvc :
    after { start 0x0200 [0x50, 0x04] [] with p := 0x60 }
      (fun t => (t.pc, t.cyc)) = some (0x0202, 2) := by decide

/-- R258: `BVS +4` (taken). -/
theorem test_bvs :
    after { start 0x0200 [0x70, 0x04] [] with p := 0x60 }
      (fun t => (t.pc, t.cyc)) = some (0x0206, 3) := by decide

/-- R254: `BNE +2` (PC after the operand wraps to 0x0000; target 0x0002, same page as 0x0000). -/
theorem test_bne_2 :
    after { start 0xFFFE [0xD0, 0x02] [] with p := 0x20 }
      (fun t => (t.pc, t.cyc)) = some (0x0002, 3) := by decide

/-- R272: `JMP $1234`. -/
theorem test_jmpAbs :
    after (start 0x0200 [0x4C, 0x34, 0x12] [])
      (fun t => (t.pc, t.cyc)) = some (0x1234, 3) := by decide

/-- R272: `JMP ($0300)`. -/
theorem test_jmpInd :
    after (start 0x0200 [0x6C, 0x00, 0x03] [(0x0300, 0x00), (0x0301, 0x80)])
      (fun t => (t.pc, t.cyc)) = some (0x8000, 5) := by decide

/-- R272: `JMP ($12FF)` (high byte from 0x1300, not 0x1200 (D5, G5)). -/
theorem test_jmpInd_2 :
    after (start 0x0200 [0x6C, 0xFF, 0x12] [(0x12FF, 0x34), (0x1300, 0x12), (0x1200, 0x56)])
      (fun t => (t.pc, t.cyc)) = some (0x1234, 5) := by decide

/-- R274: `JSR $1000` (pushes PC-1 = 0x0602, high byte first). -/
theorem test_jsr :
    after (start 0x0600 [0x20, 0x00, 0x10] [])
      (fun t => (t.sp, t.pc, Memory.read t.mem 0x01FF, Memory.read t.mem 0x01FE, t.cyc)) = some (0xFD, 0x1000, 0x06, 0x02, 6) := by decide

/-- R275: `RTS` (pulled word + 1). -/
theorem test_rts :
    after { start 0x0200 [0x60] [(0x01FE, 0x02), (0x01FF, 0x06)] with sp := 0xFD }
      (fun t => (t.sp, t.pc, t.cyc)) = some (0xFF, 0x0603, 6) := by decide

/-- R275: `RTS` (S wraps 0xFF to 0x00 to 0x01; 0x12FF + 1). -/
theorem test_rts_2 :
    after { start 0x0200 [0x60] [(0x0100, 0xFF), (0x0101, 0x12)] with sp := 0xFF }
      (fun t => (t.sp, t.pc, t.cyc)) = some (0x01, 0x1300, 6) := by decide

/-- R276: `PHA` (stack wraps inside page 1). -/
theorem test_pha :
    after { start 0x0200 [0x48] [] with a := 0x42, sp := 0x00 }
      (fun t => (t.sp, t.pc, Memory.read t.mem 0x0100, t.cyc)) = some (0xFF, 0x0201, 0x42, 3) := by decide

/-- R277: `PHP` (pushed copy has B and R set; P unchanged). -/
theorem test_php :
    after { start 0x0200 [0x08] [] with p := 0x00 }
      (fun t => (t.sp, t.pc, Memory.read t.mem 0x01FF, t.cyc)) = some (0xFE, 0x0201, 0x30, 3) := by decide

/-- R278: `PLA` (N=1). -/
theorem test_pla :
    after { start 0x0200 [0x68] [(0x01FF, 0x80)] with sp := 0xFE }
      (fun t => (t.a, t.sp, t.p, t.pc, t.cyc)) = some (0x80, 0xFF, 0xA0, 0x0201, 4) := by decide

/-- R279: `PLP` (verbatim: R=0 kept (D19)). -/
theorem test_plp :
    after { start 0x0200 [0x28] [(0x01FF, 0x00)] with sp := 0xFE }
      (fun t => (t.sp, t.p, t.pc, t.cyc)) = some (0xFF, 0x00, 0x0201, 4) := by decide

/-- R279: `PLP` (verbatim: B=1). -/
theorem test_plp_2 :
    after { start 0x0200 [0x28] [(0x01FF, 0xFF)] with sp := 0xFE }
      (fun t => (t.sp, t.p, t.pc, t.cyc)) = some (0xFF, 0xFF, 0x0201, 4) := by decide

/-- R280: `BRK` (pushes 0x0301 (BRK+1), P|0x30; I set). -/
theorem test_brk :
    after { start 0x0300 [0x00] [(0xFFFE, 0x00), (0xFFFF, 0x80)] with p := 0x20 }
      (fun t => ((t.sp, t.p, t.pc), (Memory.read t.mem 0x01FF, Memory.read t.mem 0x01FE, Memory.read t.mem 0x01FD, t.cyc))) = some ((0xFC, 0x24, 0x8000), (0x03, 0x01, 0x30, 7)) := by decide

/-- R280: `BRK` (P.R=0 in the register; pushed byte has R=1 (D10); D unchanged). -/
theorem test_brk_2 :
    after { start 0x0300 [0x00] [(0xFFFE, 0x00), (0xFFFF, 0x80)] with p := 0x0B }
      (fun t => ((t.sp, t.p, t.pc), (Memory.read t.mem 0x01FF, Memory.read t.mem 0x01FE, Memory.read t.mem 0x01FD, t.cyc))) = some ((0xFC, 0x0F, 0x8000), (0x03, 0x01, 0x3B, 7)) := by decide

/-- R281: `RTI` (no +1; P.B=1 restored verbatim). -/
theorem test_rti :
    after { start 0x0200 [0x40] [(0x01FD, 0x30), (0x01FE, 0x01), (0x01FF, 0x03)] with sp := 0xFC }
      (fun t => (t.sp, t.p, t.pc, t.cyc)) = some (0xFF, 0x30, 0x0301, 6) := by decide

/-- R300: `CLC`. -/
theorem test_clc :
    after { start 0x0200 [0x18] [] with p := 0xFF }
      (fun t => (t.p, t.pc, t.cyc)) = some (0xFE, 0x0201, 2) := by decide

/-- R301: `CLD`. -/
theorem test_cld :
    after { start 0x0200 [0xD8] [] with p := 0xFF }
      (fun t => (t.p, t.pc, t.cyc)) = some (0xF7, 0x0201, 2) := by decide

/-- R302: `CLI`. -/
theorem test_cli :
    after { start 0x0200 [0x58] [] with p := 0xFF }
      (fun t => (t.p, t.pc, t.cyc)) = some (0xFB, 0x0201, 2) := by decide

/-- R303: `CLV`. -/
theorem test_clv :
    after { start 0x0200 [0xB8] [] with p := 0xFF }
      (fun t => (t.p, t.pc, t.cyc)) = some (0xBF, 0x0201, 2) := by decide

/-- R304: `SEC` (R not restored by SEC). -/
theorem test_sec :
    after { start 0x0200 [0x38] [] with p := 0x00 }
      (fun t => (t.p, t.pc, t.cyc)) = some (0x01, 0x0201, 2) := by decide

/-- R305: `SED`. -/
theorem test_sed :
    after { start 0x0200 [0xF8] [] with p := 0x00 }
      (fun t => (t.p, t.pc, t.cyc)) = some (0x08, 0x0201, 2) := by decide

/-- R306: `SEI`. -/
theorem test_sei :
    after { start 0x0200 [0x78] [] with p := 0x00 }
      (fun t => (t.p, t.pc, t.cyc)) = some (0x04, 0x0201, 2) := by decide

/-- R307: `TAX`. -/
theorem test_tax :
    after { start 0x0200 [0xAA] [] with a := 0x00, x := 0x55 }
      (fun t => (t.x, t.p, t.pc, t.cyc)) = some (0x00, 0x22, 0x0201, 2) := by decide

/-- R308: `TAY`. -/
theorem test_tay :
    after { start 0x0200 [0xA8] [] with a := 0x80 }
      (fun t => (t.y, t.p, t.pc, t.cyc)) = some (0x80, 0xA0, 0x0201, 2) := by decide

/-- R309: `TXA`. -/
theorem test_txa :
    after { start 0x0200 [0x8A] [] with x := 0x01, a := 0x00, p := 0xA2 }
      (fun t => (t.a, t.p, t.pc, t.cyc)) = some (0x01, 0x20, 0x0201, 2) := by decide

/-- R310: `TYA`. -/
theorem test_tya :
    after { start 0x0200 [0x98] [] with y := 0xFF }
      (fun t => (t.a, t.p, t.pc, t.cyc)) = some (0xFF, 0xA0, 0x0201, 2) := by decide

/-- R311: `TSX`. -/
theorem test_tsx :
    after { start 0x0200 [0xBA] [] with sp := 0x80 }
      (fun t => (t.x, t.p, t.pc, t.cyc)) = some (0x80, 0xA0, 0x0201, 2) := by decide

/-- R312: `TXS` (no flags: Z stays 0). -/
theorem test_txs :
    after { start 0x0200 [0x9A] [] with x := 0x00, p := 0x20 }
      (fun t => (t.sp, t.pc, t.cyc)) = some (0x00, 0x0201, 2) := by decide

/-- R313: `NOP` (nothing but PC and CYC). -/
theorem test_nop :
    after { start 0x0200 [0xEA] [] with p := 0xFF }
      (fun t => (t.p, t.pc, t.cyc)) = some (0xFF, 0x0201, 2) := by decide

/-! ## Faults, halts and the host (95_test_vectors.md, level 2) -/

/-- A machine over an image of this many bytes that holds this code from address 0. -/
def small (size : Nat) (code : List Byte) : State := { start 0 code [] with memSize := size }

/-- R331: the undefined byte 0x02; PC is one past it, A and CYC are unchanged. -/
theorem test_illegal_02 :
    stop { start 0x0200 [0x02] [] with a := 0x11 } (fun t => (t.pc, t.a, t.cyc)) =
      some (.illegalOpcode 0x02 0x0200, (0x0201, 0x11, 0)) := by decide

/-- R331: the undefined byte 0xFF. -/
theorem test_illegal_FF :
    stop (start 0x0200 [0xFF] []) (fun t => (t.pc, t.run)) =
      some (.illegalOpcode 0xFF 0x0200, (0x0201, .faulted (.illegalOpcode 0xFF 0x0200))) := by decide

/-- R332: `LDA $0010` over 8 bytes. -/
theorem test_out_of_range_read :
    stop (small 8 [0xAD, 0x10, 0x00]) (fun t => (t.pc, t.a, t.cyc)) =
      some (.outOfRange 0x0010 .read, (0x0003, 0x00, 0)) := by decide

/-- R332: the operand of an immediate outside the image: PC is already past it. -/
theorem test_out_of_range_immediate :
    stop { small 4 [0xEA, 0xEA, 0xEA, 0xA9] with pc := 0x0003 } (fun t => t.pc) =
      some (.outOfRange 0x0004 .read, 0x0005) := by decide

/-- R332: the high operand byte outside the image: PC stands at it. -/
theorem test_out_of_range_operand :
    stop (small 2 [0xAD, 0xFF]) (fun t => t.pc) = some (.outOfRange 0x0002 .read, 0x0002) := by decide

/-- R332: `INC $08` over 8 bytes raises on its read, with no write. -/
theorem test_out_of_range_modify :
    stop (small 8 [0xE6, 0x08]) (fun t => (t.pc, Memory.read t.mem 8)) =
      some (.outOfRange 0x0008 .read, (0x0002, 0x00)) := by decide

/-- R332: `STA $08` over 8 bytes raises on its write. -/
theorem test_out_of_range_write :
    stop (small 8 [0x85, 0x08]) (fun t => t.pc) = some (.outOfRange 0x0008 .write, 0x0002) := by decide

/-- R109: a run entry on a faulted machine changes nothing and reports the record again. -/
theorem test_run_after_fault (s : State) (e : FaultRecord) (h : s.run = .faulted e) (fuel : Nat) :
    runUntilHalted fuel s = .fault (.alreadyFaulted e s) := by
  simp [runUntilHalted, enterRun, h]

/-- R109: `RunAtMost(0)` from reset halts at once. -/
theorem test_run_at_most_zero :
    (match runAtMost 0 State.reset with
      | .next t => decide (t.run = .halted ∧ t.pc = 0 ∧ t.cyc = 0)
      | _ => false) = true := by decide

/-- R102: PC at the end of a 4-byte image. -/
theorem test_halt_at_image_end :
    after { small 4 [0xEA] with pc := 0x0004 } (fun t => (t.run, t.pc, t.cyc)) = some (.halted, 0x0004, 0) := by decide

/-- R102: the halt flag. -/
theorem test_halt_request :
    after (setHaltReq true (start 0x0200 [0xEA] [])) (fun t => (t.run, t.pc)) = some (.halted, 0x0200) := by decide

/-- What a taken acknowledge leaves. -/
def taken {α : Type} (r : AckResult) (view : State → α) : Option α :=
  match r with
  | .taken t => some (view t)
  | _ => none

/-- R338: IRQ with I = 0. -/
theorem test_irq_taken :
    taken (acknowledge .irq (start 0x1234 [] [(0xFFFE, 0x00), (0xFFFF, 0x90)]))
      (fun t => ((t.sp, t.p, t.pc, t.cyc), Memory.read t.mem 0x1FF, Memory.read t.mem 0x1FE, Memory.read t.mem 0x1FD)) =
      some ((0xFC, 0x24, 0x9000, 7), 0x12, 0x34, 0x20) := by decide

/-- R340: IRQ with I = 1 is not taken. -/
theorem test_irq_masked : acknowledge .irq { start 0x1234 [] [] with p := 0x24 } = .notTaken := by decide

/-- R338: NMI with I = 1 and B = 1: B is cleared in the pushed copy only. -/
theorem test_nmi_taken :
    taken (acknowledge .nmi { start 0x1234 [] [(0xFFFA, 0x00), (0xFFFB, 0xA0)] with p := 0x34 })
      (fun t => ((t.sp, t.p, t.pc, t.cyc), Memory.read t.mem 0x1FF, Memory.read t.mem 0x1FE, Memory.read t.mem 0x1FD)) =
      some ((0xFC, 0x34, 0xA000, 7), 0x12, 0x34, 0x24) := by decide

/-- R343: IRQ, then RTI at the handler, returns to PC and P as they were. -/
theorem test_irq_then_rti :
    (match acknowledge .irq { start 0x0600 [] [(0xFFFE, 0x00), (0xFFFF, 0x07), (0x0700, 0x40)] with p := 0x21 } with
      | .taken t => after t (fun u => (u.pc, u.p, u.sp, u.cyc))
      | _ => none) = some (0x0600, 0x21, 0xFF, 13) := by decide

/-- A word of the opcode table placed where the reset machine fetches runs at the next step. -/
theorem test_with_fetch_word :
    after (State.reset.withFetchWord 8 0xE8) (fun t => (t.x, t.pc)) = some (0x01, 0x0001) := by decide

/-! ## Witnesses: for every statement with hypotheses, a concrete state and operands that meet them -/

theorem backed {s : State} {a : Addr} (h : decide (a.toNat < s.memSize) = true) : Backed s a :=
  of_decide_eq_true (p := a.toNat < s.memSize) h

theorem unbacked {s : State} {a : Addr} (h : decide (a.toNat < s.memSize) = false) : ¬ Backed s a :=
  of_decide_eq_false (p := a.toNat < s.memSize) h

theorem ready_start (pc : Addr) (code : List Byte) (data : List (Nat × Byte)) : Ready (start pc code data) := by
  refine ⟨rfl, ?_⟩
  have := pc.isLt
  simp [start, haltCondition, budgetSpent, State.reset, Config.conformingMemSize]
  exact decide_eq_false (by omega)

/-- EveryStepKeepsStateInv: reset, whose step completes, and a one-byte image whose step faults. -/
theorem witness_EveryStepKeepsStateInv :
    (State.reset.Inv ∧ ∃ t, step State.reset = .next t) ∧
    ((small 1 [0x02]).Inv ∧ ∃ e t, step (small 1 [0x02]) = .fault (.raised e t)) :=
  ⟨⟨⟨rfl, rfl, by decide⟩, _, rfl⟩, ⟨⟨rfl, rfl, by decide⟩, _, _, rfl⟩⟩

theorem witness_DecodeOfEncodeIsTheInstruction : Instr.wf (.jmpInd 0xFFFF) = true ∧ Instr.wf .brk = true := by decide

theorem witness_EncodeOfDecodeIsTheBytes : decode [0xA9, 0xFF, 0x01] = .ok (.ldaImm 0xFF, [0x01]) := rfl

/-- UndefinedOpcodeStopsTheStep: the first and the last undefined byte, at the last byte of a small image and of a
conforming one. -/
theorem witness_UndefinedOpcodeStopsTheStep :
    (Ready (small 1 [0x02]) ∧ Memory.read (small 1 [0x02]).mem 0 = 0x02 ∧ (0x02 : Byte) ∈ undefinedOpcodes ∧
      ∃ t, step (small 1 [0x02]) = .fault (.raised (.illegalOpcode 0x02 0) t)) ∧
    (Ready (start 0xFFFF [0xFF] []) ∧ Memory.read (start 0xFFFF [0xFF] []).mem 0xFFFF = 0xFF ∧
      (0xFF : Byte) ∈ undefinedOpcodes) :=
  ⟨⟨⟨rfl, rfl⟩, rfl, by decide, _, rfl⟩, ready_start _ _ _, rfl, by decide⟩

theorem witness_OpcodeTableIsUnambiguousAndLegal :
    (∃ r, findRow 0x00 = some r ∧ r ∈ opcodeTable ∧ r.mode ∈ legalModes r.mnemonic) ∧
    (∃ r, findRow 0xFE = some r ∧ r ∈ opcodeTable ∧ Mode.zeroPage ∈ legalModes .inc) :=
  ⟨⟨_, rfl, List.mem_of_find?_eq_some (p := fun r => r.opcode == 0x00) rfl, by decide⟩,
   ⟨_, rfl, List.mem_of_find?_eq_some (p := fun r => r.opcode == 0xFE) rfl, by decide⟩⟩

/-- StepRunsTheDecodedInstruction: a 3-byte instruction whose bytes wrap at 0xFFFF, and a 1-byte one that is the last
byte of its image. -/
theorem witness_StepRunsTheDecodedInstruction :
    (Ready (start 0xFFFE [0xAD, 0x34, 0x12] []) ∧ Instr.wf (.ldaAbs 0x1234) = true ∧
      decode [Memory.read (start 0xFFFE [0xAD, 0x34, 0x12] []).mem 0xFFFE,
        Memory.read (start 0xFFFE [0xAD, 0x34, 0x12] []).mem 0xFFFF,
        Memory.read (start 0xFFFE [0xAD, 0x34, 0x12] []).mem 0x0000] = .ok (.ldaAbs 0x1234, []) ∧
      ∀ k < 3, Backed (start 0xFFFE [0xAD, 0x34, 0x12] []) (0xFFFE + BitVec.ofNat 16 k)) ∧
    (Ready (small 1 [0xEA]) ∧ Instr.wf .nop = true ∧ decode [Memory.read (small 1 [0xEA]).mem 0, Memory.read (small 1 [0xEA]).mem 1,
        Memory.read (small 1 [0xEA]).mem 2] = .ok (.nop, [0, 0]) ∧ Backed (small 1 [0xEA]) 0) :=
  ⟨⟨ready_start _ _ _, rfl, rfl, fun _ _ => BitVec.isLt _⟩, ⟨rfl, rfl⟩, rfl, rfl, backed rfl⟩

/-- MissingOperandByteStopsTheStep: each of its three clauses, the missing byte the first one past the image. -/
theorem witness_MissingOperandByteStopsTheStep :
    (Ready (small 1 [0xA9]) ∧ (Instr.ldaImm 0).opcode = Memory.read (small 1 [0xA9]).mem 0 ∧
      (Instr.ldaImm 0).operand.mode = .immediate ∧ ¬ Backed (small 1 [0xA9]) 1) ∧
    (Ready (small 1 [0xA5]) ∧ (Instr.ldaZp 0).opcode = Memory.read (small 1 [0xA5]).mem 0 ∧
      (Instr.ldaZp 0).operand.mode ≠ .immediate ∧ 2 ≤ (Instr.ldaZp 0).length ∧ ¬ Backed (small 1 [0xA5]) 1) ∧
    (Ready (small 2 [0xAD, 0xFF]) ∧ (Instr.ldaAbs 0).opcode = Memory.read (small 2 [0xAD, 0xFF]).mem 0 ∧
      (Instr.ldaAbs 0).length = 3 ∧ Backed (small 2 [0xAD, 0xFF]) 1 ∧ ¬ Backed (small 2 [0xAD, 0xFF]) 2) :=
  ⟨⟨⟨rfl, rfl⟩, rfl, rfl, unbacked rfl⟩, ⟨⟨rfl, rfl⟩, rfl, by decide, by decide, unbacked rfl⟩,
   ⟨rfl, rfl⟩, rfl, rfl, backed rfl, unbacked rfl⟩

/-- HaltConditionHaltsBeforeTheFetch: each of the three conditions alone, and none of them. -/
theorem witness_HaltConditionHaltsBeforeTheFetch :
    ((setHaltReq true State.reset).run = .running ∧ (setHaltReq true State.reset).haltReq = true) ∧
    ({ State.reset with budget := some 0 }.run = .running ∧
      ∃ n, { State.reset with budget := some 0 }.budget = some n ∧ n ≤ 0) ∧
    ({ small 4 [] with pc := 4 }.run = .running ∧ { small 4 [] with pc := 4 }.memSize ≤ (4 : Addr).toNat) ∧
    (haltCondition { State.reset with budget := some 1 } = false ∧
      ∃ t, step { State.reset with budget := some 1 } = .next t) :=
  ⟨⟨rfl, rfl⟩, ⟨rfl, 0, rfl, Nat.le_refl _⟩, ⟨rfl, by decide⟩, rfl, _, rfl⟩

theorem witness_TerminalStatesAreNotChangedByAStep :
    (State.reset.setRun .halted).run = .halted ∧
    (State.reset.setRun (.faulted (.illegalOpcode 0x02 0))).run = .faulted (.illegalOpcode 0x02 0) := ⟨rfl, rfl⟩

/-- ConformingImageNeverGoesOutOfRange: an image of exactly 65536 bytes, Running. -/
theorem witness_ConformingImageNeverGoesOutOfRange : State.reset.Conforming ∧ State.reset.run = .running :=
  ⟨Nat.le_refl _, rfl⟩

/-- RaisedFaultLeavesItsFrame: an undefined byte, and a read of the first address past the image. -/
theorem witness_RaisedFaultLeavesItsFrame :
    (∃ t, step (small 1 [0x02]) = .fault (.raised (.illegalOpcode 0x02 0) t)) ∧
    ((∃ t, step (small 8 [0xA5, 0x08]) = .fault (.raised (.outOfRange 8 .read) t)) ∧
      Memory.read (small 8 [0xA5, 0x08]).mem 0 ∉ ([0x20, 0x60, 0x68, 0x28, 0x00, 0x40] : List Byte)) :=
  ⟨⟨_, rfl⟩, ⟨_, rfl⟩, by decide⟩

/-- CompletedInstructionCountsOnce, FlagsChangeOnlyByTheirWriters and RegistersChangeOnlyByTheirWriters: NOP completes
and is in no list of writers. -/
theorem witness_ChangesOnlyByWriters :
    (∃ t, exec .nop State.reset = .next t) ∧ (∀ f, Instr.nop.mnemonic ∉ flagWriters f) ∧
    Instr.nop.mnemonic ∉ writersOfA ∧ Instr.nop.mnemonic ∉ writersOfX ∧ Instr.nop.mnemonic ∉ writersOfY ∧
    Instr.nop.mnemonic ∉ writersOfS ∧ Instr.nop.mnemonic ∉ writersOfMemory ∧
    Instr.nop.mnemonic ∉ controlTransfers :=
  ⟨⟨_, rfl⟩, fun f => by cases f <;> decide, by decide, by decide, by decide, by decide, by decide, by decide⟩

/-- UnreadFlagsDoNotInterfere: D before ADC with a completed and with a stopped step, B and R before NOP. -/
theorem witness_UnreadFlagsDoNotInterfere :
    (Flag.d ∈ [Flag.d, Flag.b, Flag.r] ∧ Instr.mnemonic (.adcImm 0) ∉ flagWriters .d ∧
      Instr.mnemonic (.adcImm 0) ∉ [Mnemonic.php, Mnemonic.brk] ∧ ∃ t, exec (.adcImm 0x50) State.reset = .next t) ∧
    (Instr.mnemonic (.adcAbs 8) ∉ flagWriters .d ∧ Instr.mnemonic (.adcAbs 8) ∉ [Mnemonic.php, Mnemonic.brk] ∧
      ∃ e t, exec (.adcAbs 8) (small 8 []) = .fault (.raised e t)) ∧
    (Instr.mnemonic .nop ∉ flagWriters .b ∧ Instr.mnemonic .nop ∉ flagWriters .r ∧
      ∃ t, exec .nop State.reset = .next t) :=
  ⟨⟨by decide, by decide, by decide, _, rfl⟩, ⟨by decide, by decide, _, _, rfl⟩, by decide, by decide, _, rfl⟩

/-- MemoryReadAfterWrite and EqualReadsAreEqualMemories: a canonical image of two bytes. -/
theorem witness_MemoryReadAfterWrite : Memory.wf [(0, 0x01), (0xFFFF, 0xFF)] = true := by decide

theorem witness_EqualReadsAreEqualMemories :
    Memory.wf [(0xFFFF, 0xFF)] = true ∧ ∀ a, Memory.read [(0xFFFF, 0xFF)] a = Memory.read [(0xFFFF, 0xFF)] a :=
  ⟨by decide, fun _ => rfl⟩

/-- MemoryPortChecksTheImageBound: the last backed address and the first that is not. -/
theorem witness_MemoryPortChecksTheImageBound :
    (7 : Addr).toNat < (small 8 []).memSize ∧ (small 8 []).memSize ≤ (8 : Addr).toNat := by decide

/-- WordReadsAreLittleEndianAndWrap: each clause, with the wraps 0xFFFF to 0x0000 and 0xFF to 0x00. -/
theorem witness_WordReadsAreLittleEndianAndWrap :
    ((0xFFFF : Addr).toNat < State.reset.memSize ∧ (0xFFFF + 1) % 65536 < State.reset.memSize) ∧
    (small 8 []).memSize ≤ (8 : Addr).toNat ∧
    ((7 : Addr).toNat < (small 8 []).memSize ∧ (small 8 []).memSize ≤ (7 + 1) % 65536) ∧
    ((0xFF : Byte).toNat < State.reset.memSize ∧ (0xFF + 1) % 256 < State.reset.memSize) ∧
    (small 8 []).memSize ≤ (8 : Byte).toNat ∧
    ((7 : Byte).toNat < (small 8 []).memSize ∧ (small 8 []).memSize ≤ (7 + 1) % 256) := by decide

/-- PushAndPullKeepTheStackInPageOne: the last stack byte backed and not, for a push (S = 0xFF) and a pull (S = 0xFE),
and a pull that wraps to 0x0100. -/
theorem witness_PushAndPullKeepTheStackInPageOne :
    256 + (small 0x200 []).sp.toNat < (small 0x200 []).memSize ∧
    (small 0x1FF []).memSize ≤ 256 + (small 0x1FF []).sp.toNat ∧
    (BitVec.ofNat 16 (256 + ((small 0x101 []).sp.toNat + 1) % 256)).toNat < (small 0x101 []).memSize ∧
    (small 0x100 []).memSize ≤ (BitVec.ofNat 16 (256 + ((small 0x100 []).sp.toNat + 1) % 256)).toNat := by decide

theorem witness_PointerModesReadTheirPointerInTheZeroPage : State.reset.Conforming := Nat.le_refl _

/-- A row of the list has the opcode. -/
def HasRow (rows : List Row) (op : Byte) : Prop := ∃ r ∈ rows, op = r.op

theorem hasRow {rows : List Row} {op : Byte} (h : rows.any (fun r => decide (op = r.op)) = true) : HasRow rows op := by
  obtain ⟨r, hr, h⟩ := List.any_eq_true.1 h
  exact ⟨r, hr, of_decide_eq_true h⟩

/-- The read statements (LoadsReadTheirOperand, AdcAddsWithCarry, SbcSubtractsWithBorrow, LogicCombinesWithA,
ComparesSetCarryZeroAndSign, BitTestsTheOperand): for each mnemonic a row and an operand that is read, in each mode, the
last byte of the image among them, with a crossing and without. -/
theorem witness_reads_complete :
    (HasRow (readRows 0xA9 0xA5 0xB5 0xAD 0xBD 0xB9 0xA1 0xB1) (Instr.ldaImm 0xFF).opcode ∧
      readOperand (Instr.ldaImm 0xFF).operand State.reset = some (.ok (0xFF, false))) ∧
    (HasRow [⟨0xA2, .immediate, 2, false⟩, ⟨0xB6, .zeroPageY, 4, false⟩] (Instr.ldxZpY 0xFF).opcode ∧
      readOperand (Instr.ldxZpY 0xFF).operand State.reset = some (.ok (0, false))) ∧
    (HasRow [⟨0xA0, .immediate, 2, false⟩, ⟨0xB4, .zeroPageX, 4, false⟩] (Instr.ldyZpX 0xFF).opcode ∧
      readOperand (Instr.ldyZpX 0xFF).operand State.reset = some (.ok (0, false))) ∧
    (HasRow (readRows 0x69 0x65 0x75 0x6D 0x7D 0x79 0x61 0x71) (Instr.adcZp 0x07).opcode ∧
      readOperand (Instr.adcZp 0x07).operand (small 8 []) = some (.ok (0, false))) ∧
    (HasRow (readRows 0xE9 0xE5 0xF5 0xED 0xFD 0xF9 0xE1 0xF1) (Instr.sbcAbsX 0x12F0).opcode ∧
      readOperand (Instr.sbcAbsX 0x12F0).operand { State.reset with x := 0x20 } = some (.ok (0, true))) ∧
    (HasRow (readRows 0x29 0x25 0x35 0x2D 0x3D 0x39 0x21 0x31) (Instr.andIndX 0xFF).opcode ∧
      readOperand (Instr.andIndX 0xFF).operand State.reset = some (.ok (0, false))) ∧
    (HasRow (readRows 0x09 0x05 0x15 0x0D 0x1D 0x19 0x01 0x11) (Instr.oraIndY 0x10).opcode ∧
      readOperand (Instr.oraIndY 0x10).operand (start 0 [] [(0x10, 0xFF), (0x11, 0xFF)]) = some (.ok (0, false))) ∧
    (HasRow (readRows 0x49 0x45 0x55 0x4D 0x5D 0x59 0x41 0x51) (Instr.eorAbs 0xFFFF).opcode ∧
      readOperand (Instr.eorAbs 0xFFFF).operand State.reset = some (.ok (0, false))) ∧
    (HasRow (readRows 0xC9 0xC5 0xD5 0xCD 0xDD 0xD9 0xC1 0xD1) (Instr.cmpAbsY 0x1200).opcode ∧
      readOperand (Instr.cmpAbsY 0x1200).operand { State.reset with y := 0xFF } = some (.ok (0, false))) ∧
    (HasRow [⟨0xE0, .immediate, 2, false⟩, ⟨0xEC, .absolute, 4, false⟩] (Instr.cpxAbs 7).opcode ∧
      readOperand (Instr.cpxAbs 7).operand (small 8 []) = some (.ok (0, false))) ∧
    (HasRow [⟨0xC0, .immediate, 2, false⟩, ⟨0xC4, .zeroPage, 3, false⟩] (Instr.cpyZp 0x07).opcode ∧
      readOperand (Instr.cpyZp 0x07).operand (small 8 []) = some (.ok (0, false))) ∧
    (HasRow [⟨0x24, .zeroPage, 3, false⟩, ⟨0x2C, .absolute, 4, false⟩] (Instr.bitZp 0x07).opcode ∧
      readOperand (Instr.bitZp 0x07).operand (small 8 []) = some (.ok (0, false))) := by
  refine ⟨⟨hasRow rfl, rfl⟩, ⟨hasRow rfl, rfl⟩, ⟨hasRow rfl, rfl⟩, ⟨hasRow rfl, rfl⟩, ⟨hasRow rfl, rfl⟩, ⟨hasRow rfl, rfl⟩, ⟨hasRow rfl, rfl⟩, ⟨hasRow rfl, rfl⟩, ⟨hasRow rfl, rfl⟩, ⟨hasRow rfl, rfl⟩, ⟨hasRow rfl, rfl⟩, ⟨hasRow rfl, rfl⟩⟩

/-- The read statements' other clause: for each mnemonic an operand whose read, or whose pointer's read, is outside the
image. -/
theorem witness_reads_stop :
    readOperand (Instr.ldaIndX 0x08).operand (small 8 []) = some (.error (.outOfRange 8 .read)) ∧
    readOperand (Instr.ldxAbs 8).operand (small 8 []) = some (.error (.outOfRange 8 .read)) ∧
    readOperand (Instr.ldyAbs 8).operand (small 8 []) = some (.error (.outOfRange 8 .read)) ∧
    readOperand (Instr.adcIndY 0x07).operand (small 8 []) = some (.error (.outOfRange 8 .read)) ∧
    readOperand (Instr.sbcZp 8).operand (small 8 []) = some (.error (.outOfRange 8 .read)) ∧
    readOperand (Instr.andAbs 8).operand (small 8 []) = some (.error (.outOfRange 8 .read)) ∧
    readOperand (Instr.oraAbs 8).operand (small 8 []) = some (.error (.outOfRange 8 .read)) ∧
    readOperand (Instr.eorAbs 8).operand (small 8 []) = some (.error (.outOfRange 8 .read)) ∧
    readOperand (Instr.cmpAbs 8).operand (small 8 []) = some (.error (.outOfRange 8 .read)) ∧
    readOperand (Instr.cpxAbs 8).operand (small 8 []) = some (.error (.outOfRange 8 .read)) ∧
    readOperand (Instr.cpyAbs 8).operand (small 8 []) = some (.error (.outOfRange 8 .read)) ∧
    readOperand (Instr.bitAbs 8).operand (small 8 []) = some (.error (.outOfRange 8 .read)) := by
  refine ⟨rfl, rfl, rfl, rfl, rfl, rfl, rfl, rfl, rfl, rfl, rfl, rfl⟩

/-- StoresWriteTheirRegister: for each mnemonic a row with the last byte of the image as its address, the first address
past the image, and for STA a pointer outside the image. -/
theorem witness_StoresWriteTheirRegister :
    (resolve (.zeroPage 0x07) (small 8 []) = .ok (7, false) ∧ Backed (small 8 []) 7) ∧
    (resolve (.absolute 8) (small 8 []) = .ok (8, false) ∧ ¬ Backed (small 8 []) 8) ∧
    (HasRow [⟨0x85, .zeroPage, 3, false⟩, ⟨0x81, .indexedIndirect, 6, false⟩] (Instr.staZp 0x07).opcode ∧
      (Instr.staZp 0x07).operand = .memory (.zeroPage 0x07) ∧
      (Instr.staAbs 8).mnemonic = .sta ∧ (Instr.staAbs 8).operand = .memory (.absolute 8)) ∧
    (HasRow [⟨0x86, .zeroPage, 3, false⟩, ⟨0x96, .zeroPageY, 4, false⟩] (Instr.stxZp 0x07).opcode ∧
      (Instr.stxZp 0x07).operand = .memory (.zeroPage 0x07) ∧
      (Instr.stxAbs 8).mnemonic = .stx ∧ (Instr.stxAbs 8).operand = .memory (.absolute 8)) ∧
    (HasRow [⟨0x84, .zeroPage, 3, false⟩, ⟨0x94, .zeroPageX, 4, false⟩] (Instr.styZp 0x07).opcode ∧
      (Instr.styZp 0x07).operand = .memory (.zeroPage 0x07) ∧
      (Instr.styAbs 8).mnemonic = .sty ∧ (Instr.styAbs 8).operand = .memory (.absolute 8)) ∧
    ((Instr.staIndX 0x07).mnemonic = .sta ∧ (Instr.staIndX 0x07).operand = .memory (.indexedIndirect 0x07) ∧
      resolve (.indexedIndirect 0x07) (small 8 []) = .error (.outOfRange 8 .read)) :=
  ⟨⟨rfl, backed rfl⟩, ⟨rfl, unbacked rfl⟩, ⟨hasRow rfl, rfl, rfl, rfl⟩, ⟨hasRow rfl, rfl, rfl, rfl⟩,
   ⟨hasRow rfl, rfl, rfl, rfl⟩, rfl, rfl, rfl⟩

/-- The read-modify-write statements (AslShiftsLeft, LsrShiftsRight, RolRotatesLeftThroughCarry,
RorRotatesRightThroughCarry, IncAndDecChangeMemoryByOne): for each mnemonic a row with the last byte of the image as its
address, and the first address past the image. -/
theorem witness_modifies :
    (resolve (.absolute 7) (small 8 []) = .ok (7, false) ∧ Backed (small 8 []) 7) ∧
    (resolve (.absolute 8) (small 8 []) = .ok (8, false) ∧ ¬ Backed (small 8 []) 8) ∧
    (HasRow (modifyRows 0x06 0x16 0x0E 0x1E) (Instr.aslAbs 7).opcode ∧ (Instr.aslAbs 7).operand = .memory (.absolute 7) ∧
      (Instr.aslAbs 8).mnemonic = .asl ∧ (Instr.aslAbs 8).operand = .memory (.absolute 8)) ∧
    (HasRow (modifyRows 0x46 0x56 0x4E 0x5E) (Instr.lsrAbs 7).opcode ∧ (Instr.lsrAbs 7).operand = .memory (.absolute 7) ∧
      (Instr.lsrAbs 8).mnemonic = .lsr ∧ (Instr.lsrAbs 8).operand = .memory (.absolute 8)) ∧
    (HasRow (modifyRows 0x26 0x36 0x2E 0x3E) (Instr.rolAbs 7).opcode ∧ (Instr.rolAbs 7).operand = .memory (.absolute 7) ∧
      (Instr.rolAbs 8).mnemonic = .rol ∧ (Instr.rolAbs 8).operand = .memory (.absolute 8)) ∧
    (HasRow (modifyRows 0x66 0x76 0x6E 0x7E) (Instr.rorAbs 7).opcode ∧ (Instr.rorAbs 7).operand = .memory (.absolute 7) ∧
      (Instr.rorAbs 8).mnemonic = .ror ∧ (Instr.rorAbs 8).operand = .memory (.absolute 8)) ∧
    (HasRow (modifyRows 0xE6 0xF6 0xEE 0xFE) (Instr.incAbs 7).opcode ∧ (Instr.incAbs 7).operand = .memory (.absolute 7) ∧
      (Instr.incAbs 8).mnemonic = .inc ∧ (Instr.incAbs 8).operand = .memory (.absolute 8)) ∧
    (HasRow (modifyRows 0xC6 0xD6 0xCE 0xDE) (Instr.decAbs 7).opcode ∧ (Instr.decAbs 7).operand = .memory (.absolute 7) ∧
      (Instr.decAbs 8).mnemonic = .dec ∧ (Instr.decAbs 8).operand = .memory (.absolute 8)) :=
  ⟨⟨rfl, backed rfl⟩, ⟨rfl, unbacked rfl⟩, ⟨hasRow rfl, rfl, rfl, rfl⟩, ⟨hasRow rfl, rfl, rfl, rfl⟩,
   ⟨hasRow rfl, rfl, rfl, rfl⟩, ⟨hasRow rfl, rfl, rfl, rfl⟩, ⟨hasRow rfl, rfl, rfl, rfl⟩, hasRow rfl, rfl, rfl, rfl⟩

/-- BranchesTestOneFlag: a state where the four flags are 0 and one where they are 1, so every branch is taken in one
and not in the other. -/
theorem witness_BranchesTestOneFlag :
    (∀ f ∈ [Flag.c, Flag.z, Flag.n, Flag.v], flag f 0x00 = false) ∧
    (∀ f ∈ [Flag.c, Flag.z, Flag.n, Flag.v], flag f 0xFF = true) := by decide

/-- JmpGoesToItsTarget: both pointer bytes backed across the wrap at 0xFFFF, the first not, the second not. -/
theorem witness_JmpGoesToItsTarget :
    (Backed State.reset 0xFFFF ∧ Backed State.reset (0xFFFF + 1)) ∧ ¬ Backed (small 8 []) 8 ∧
    (Backed (small 8 []) 7 ∧ ¬ Backed (small 8 []) (7 + 1)) :=
  ⟨⟨backed rfl, backed rfl⟩, unbacked rfl, backed rfl, unbacked rfl⟩

/-- The pushing statements (JsrPushesItsLastByteAddress, PhaAndPhpPushOneByte, BrkEntersItsHandler): S = 0xFF with the
stack page backed; the first slot unbacked; with S = 0x00 and S = 0x01, where the next slot wraps to 0x01FF, the second
and the third unbacked. -/
theorem witness_pushes :
    (Backed State.reset (stackAddr State.reset.sp) ∧ Backed State.reset (stackAddr (State.reset.sp - 1)) ∧
      Backed State.reset (stackAddr (State.reset.sp - 2)) ∧ Backed State.reset 0xFFFF) ∧
    ¬ Backed (small 0x1FF []) (stackAddr 0xFF) ∧
    (Backed (small 0x1FF []) (stackAddr 0x00) ∧ ¬ Backed (small 0x1FF []) (stackAddr (0x00 - 1))) ∧
    (Backed (small 0x1FF []) (stackAddr 0x01) ∧ Backed (small 0x1FF []) (stackAddr (0x01 - 1)) ∧
      ¬ Backed (small 0x1FF []) (stackAddr (0x01 - 2))) :=
  ⟨⟨backed rfl, backed rfl, backed rfl, backed rfl⟩, unbacked rfl, ⟨backed rfl, unbacked rfl⟩, backed rfl, backed rfl,
   unbacked rfl⟩

/-- BrkEntersItsHandler's vector clauses: the stack backed and the vector's low byte not, or its high byte alone not. -/
theorem witness_BrkEntersItsHandler :
    (Backed (small 0xFFFE []) (stackAddr 0xFF) ∧ Backed (small 0xFFFE []) (stackAddr 0xFE) ∧
      Backed (small 0xFFFE []) (stackAddr 0xFD) ∧ ¬ Backed (small 0xFFFE []) 0xFFFE) ∧
    (Backed (small 0xFFFF []) (stackAddr 0xFF) ∧ Backed (small 0xFFFF []) (stackAddr 0xFE) ∧
      Backed (small 0xFFFF []) (stackAddr 0xFD) ∧ Backed (small 0xFFFF []) 0xFFFE ∧
      ¬ Backed (small 0xFFFF []) 0xFFFF) :=
  ⟨⟨backed rfl, backed rfl, backed rfl, unbacked rfl⟩, backed rfl, backed rfl, backed rfl, backed rfl, unbacked rfl⟩

/-- The pulling statements (RtsReturnsPastThePulledAddress, PlaAndPlpPullOneByte, RtiRestoresPThenPc): the next slots
backed across the wrap from 0xFF; then the first, the second and the third slot the one at 0x01FF and unbacked. -/
theorem witness_pulls :
    (Backed State.reset (stackAddr (0xFF + 1)) ∧ Backed State.reset (stackAddr (0xFF + 2)) ∧
      Backed State.reset (stackAddr (0xFF + 3))) ∧
    ¬ Backed (small 0x1FF []) (stackAddr (0xFE + 1)) ∧
    (Backed (small 0x1FF []) (stackAddr (0xFD + 1)) ∧ ¬ Backed (small 0x1FF []) (stackAddr (0xFD + 2))) ∧
    (Backed (small 0x1FF []) (stackAddr (0xFC + 1)) ∧ Backed (small 0x1FF []) (stackAddr (0xFC + 2)) ∧
      ¬ Backed (small 0x1FF []) (stackAddr (0xFC + 3))) :=
  ⟨⟨backed rfl, backed rfl, backed rfl⟩, unbacked rfl, ⟨backed rfl, unbacked rfl⟩, backed rfl, backed rfl,
   unbacked rfl⟩

theorem witness_JsrThenRtsReturns :
    Memory.wf State.reset.mem = true ∧ ∃ t, exec (.jsr 0x1000) State.reset = .next t := ⟨rfl, _, rfl⟩

theorem witness_BrkThenRtiReturns :
    Memory.wf State.reset.mem = true ∧ ∃ t, exec .brk State.reset = .next t := ⟨rfl, _, rfl⟩

theorem witness_PhpThenPlpRestoresP :
    Memory.wf State.reset.mem = true ∧ ∃ t, exec .php State.reset = .next t := ⟨rfl, _, rfl⟩

/-- AcknowledgeEntersTheVector: IRQ masked, IRQ open, and NMI with the vector the last two bytes it needs. -/
theorem witness_AcknowledgeEntersTheVector :
    ((∀ e, State.reset.run ≠ .faulted e) ∧ flag .i 0x24 = true ∧ flag .i State.reset.p = false ∧
      Backed State.reset (stackAddr State.reset.sp) ∧ Backed State.reset (stackAddr (State.reset.sp - 1)) ∧
      Backed State.reset (stackAddr (State.reset.sp - 2)) ∧ 0xFFFE + 1 < State.reset.memSize) ∧
    ((∀ e, (small 0xFFFC []).run ≠ .faulted e) ∧ Backed (small 0xFFFC []) (stackAddr 0xFF) ∧
      Backed (small 0xFFFC []) (stackAddr 0xFE) ∧ Backed (small 0xFFFC []) (stackAddr 0xFD) ∧
      0xFFFA + 1 < (small 0xFFFC []).memSize) :=
  ⟨⟨fun _ h => (by cases h), rfl, rfl, backed rfl, backed rfl, backed rfl, by decide⟩,
   fun _ h => (by cases h), backed rfl, backed rfl, backed rfl, by decide⟩

/-- AcknowledgeOutsideTheImageFaults: NMI with each stack slot in turn the first that is not backed (`witness_pushes`
has the same slots), and with the low and the high byte of its vector outside the image. -/
theorem witness_AcknowledgeOutsideTheImageFaults :
    (∀ e, (small 0x1FF []).run ≠ .faulted e) ∧ ¬ Backed (small 0x1FF []) (stackAddr 0xFF) ∧
    (Backed (small 0x1FF []) (stackAddr 0x00) ∧ ¬ Backed (small 0x1FF []) (stackAddr (0x00 - 1))) ∧
    (Backed (small 0x1FF []) (stackAddr 0x01) ∧ Backed (small 0x1FF []) (stackAddr (0x01 - 1)) ∧
      ¬ Backed (small 0x1FF []) (stackAddr (0x01 - 2))) ∧
    (Backed (small 0xFFFA []) (stackAddr 0xFF) ∧ Backed (small 0xFFFA []) (stackAddr 0xFE) ∧
      Backed (small 0xFFFA []) (stackAddr 0xFD) ∧ ¬ Backed (small 0xFFFA []) 0xFFFA) ∧
    (Backed (small 0xFFFB []) (stackAddr 0xFF) ∧ Backed (small 0xFFFB []) (stackAddr 0xFE) ∧
      Backed (small 0xFFFB []) (stackAddr 0xFD) ∧ Backed (small 0xFFFB []) 0xFFFA ∧
      ¬ Backed (small 0xFFFB []) (0xFFFA + 1)) :=
  ⟨fun _ h => (by cases h), unbacked rfl, ⟨backed rfl, unbacked rfl⟩, ⟨backed rfl, backed rfl, unbacked rfl⟩,
   ⟨backed rfl, backed rfl, backed rfl, unbacked rfl⟩, backed rfl, backed rfl, backed rfl, backed rfl, unbacked rfl⟩

theorem witness_AcknowledgeThenRtiReturns :
    Memory.wf State.reset.mem = true ∧ (∃ t, acknowledge .irq State.reset = .taken t) ∧
    ∃ t, acknowledge .nmi State.reset = .taken t := ⟨rfl, ⟨_, rfl⟩, _, rfl⟩

theorem witness_RunAtMostEndsWithinItsBudget :
    (State.reset.setRun (.faulted (.illegalOpcode 0x02 0))).run = .faulted (.illegalOpcode 0x02 0) ∧
    ∀ e, State.reset.run ≠ .faulted e := ⟨rfl, fun _ h => (by cases h)⟩

end Sys2Proof.Tests
end

/-! SUPPORT. The shape of every instruction's meaning, as one case split: the shared execution an instruction runs and
the effect it runs it with. A proof about all instructions splits on `exec_shape` and treats each shape once. -/
namespace Sys2Proof.Proofs

open Sys2Proof.Machine Sys2Proof.Laws

/-- The effects of the one-byte instructions that only write registers, by mnemonic (45_incdec.md R212 to R215,
49_flags_transfer_nop.md R300 to R313). -/
inductive ImpliedEffect : Mnemonic → (State → State) → Prop
  | clc : ImpliedEffect .clc fun t => t.setP (setFlag .c false t.p)
  | cld : ImpliedEffect .cld fun t => t.setP (setFlag .d false t.p)
  | cli : ImpliedEffect .cli fun t => t.setP (setFlag .i false t.p)
  | clv : ImpliedEffect .clv fun t => t.setP (setFlag .v false t.p)
  | sec : ImpliedEffect .sec fun t => t.setP (setFlag .c true t.p)
  | sed : ImpliedEffect .sed fun t => t.setP (setFlag .d true t.p)
  | sei : ImpliedEffect .sei fun t => t.setP (setFlag .i true t.p)
  | tax : ImpliedEffect .tax fun t => (t.setX t.a).withNZ t.a
  | tay : ImpliedEffect .tay fun t => (t.setY t.a).withNZ t.a
  | txa : ImpliedEffect .txa fun t => (t.setA t.x).withNZ t.x
  | tya : ImpliedEffect .tya fun t => (t.setA t.y).withNZ t.y
  | tsx : ImpliedEffect .tsx fun t => (t.setX t.sp).withNZ t.sp
  | txs : ImpliedEffect .txs fun t => t.setSp t.x
  | inx : ImpliedEffect .inx fun t => (t.setX (t.x + 1#8)).withNZ (t.x + 1#8)
  | iny : ImpliedEffect .iny fun t => (t.setY (t.y + 1#8)).withNZ (t.y + 1#8)
  | dex : ImpliedEffect .dex fun t => (t.setX (t.x - 1#8)).withNZ (t.x - 1#8)
  | dey : ImpliedEffect .dey fun t => (t.setY (t.y - 1#8)).withNZ (t.y - 1#8)
  | nop : ImpliedEffect .nop fun t => t

/-- The effects of the jumps, subroutines and stack operations (48_jump_stack.md R272 to R281). -/
inductive PlainEffect : Instr → (State → Res State) → Prop
  | jmpAbs (w : Addr) : PlainEffect (.jmpAbs w) fun t => .ok (t.setPc w)
  | jmpInd (w : Addr) : PlainEffect (.jmpInd w) (jumpIndirect w)
  | jsr (w : Addr) : PlainEffect (.jsr w) (callSub w)
  | rts : PlainEffect .rts returnFromSub
  | pha : PlainEffect .pha fun t => push t.a t
  | php : PlainEffect .php fun t => push (pushedByBreak t.p) t
  | pla : PlainEffect .pla pullA
  | plp : PlainEffect .plp pullP
  | brk : PlainEffect .brk fun t => enterInterrupt (pushedByBreak t.p) irqVector t
  | rti : PlainEffect .rti returnFromInterrupt

/-- The flag a branch tests and the value it branches on, by mnemonic (47_branch.md R251 to R258). -/
def branchTest : Mnemonic → Option (Flag × Bool)
  | .bcc => some (.c, false)
  | .bcs => some (.c, true)
  | .beq => some (.z, true)
  | .bne => some (.z, false)
  | .bmi => some (.n, true)
  | .bpl => some (.n, false)
  | .bvc => some (.v, false)
  | .bvs => some (.v, true)
  | _ => none

/-- The shared execution that an instruction runs, with its effect. -/
inductive Shape (i : Instr) : Prop
  | immediate (g : Byte → State → State) (v : Byte) (hg : readEffect i.mnemonic = some g)
      (ho : i.operand = .immediate v) (he : ∀ s, exec i s = readImmediate i.opcode v g s)
  | read (g : Byte → State → State) (m : MemOperand) (hg : readEffect i.mnemonic = some g)
      (ho : i.operand = .memory m) (he : ∀ s, exec i s = readMemory i.opcode m g s)
  | store (r : State → Byte) (m : MemOperand) (hr : storeSource i.mnemonic = some r)
      (ho : i.operand = .memory m) (he : ∀ s, exec i s = storeMemory i.opcode m (r s) s)
  | modify (g : Byte → Byte → Byte × Byte) (m : MemOperand) (hg : modifyEffect i.mnemonic = some g)
      (ho : i.operand = .memory m) (he : ∀ s, exec i s = modifyMemory i.opcode m g s)
  | accumulator (g : Byte → Byte → Byte × Byte) (hg : modifyEffect i.mnemonic = some g)
      (ho : i.operand = .accumulator) (he : ∀ s, exec i s = modifyAcc i.opcode g s)
  | branch (f : Flag) (on : Bool) (d : Byte) (hb : branchTest i.mnemonic = some (f, on))
      (ho : i.operand = .relative d) (he : ∀ s, exec i s = branchIf i.opcode f on d s)
  | implied (g : State → State) (hg : ImpliedEffect i.mnemonic g)
      (ho : i.operand = .implied) (he : ∀ s, exec i s = runImplied i.opcode g s)
  | plain (g : State → Res State) (hg : PlainEffect i g)
      (he : ∀ s, exec i s = runPlain i.opcode i.length g s)

/-- Every instruction has one of the eight shapes. -/
theorem exec_shape (i : Instr) : Shape i := by
  cases i with
  | oraImm v | andImm v | eorImm v | adcImm v | ldyImm v | ldxImm v | ldaImm v | cpyImm v | cmpImm v | cpxImm v
  | sbcImm v => exact .immediate _ v rfl rfl fun s => (exec_shapes _ s).1 _ _ rfl rfl
  | oraIndX _ | oraZp _ | oraAbs _ | oraIndY _ | oraZpX _ | oraAbsY _ | oraAbsX _
  | andIndX _ | andZp _ | andAbs _ | andIndY _ | andZpX _ | andAbsY _ | andAbsX _
  | eorIndX _ | eorZp _ | eorAbs _ | eorIndY _ | eorZpX _ | eorAbsY _ | eorAbsX _
  | adcIndX _ | adcZp _ | adcAbs _ | adcIndY _ | adcZpX _ | adcAbsY _ | adcAbsX _
  | sbcIndX _ | sbcZp _ | sbcAbs _ | sbcIndY _ | sbcZpX _ | sbcAbsY _ | sbcAbsX _
  | cmpIndX _ | cmpZp _ | cmpAbs _ | cmpIndY _ | cmpZpX _ | cmpAbsY _ | cmpAbsX _
  | ldaIndX _ | ldaZp _ | ldaAbs _ | ldaIndY _ | ldaZpX _ | ldaAbsY _ | ldaAbsX _
  | ldxZp _ | ldxAbs _ | ldxZpY _ | ldxAbsY _ | ldyZp _ | ldyAbs _ | ldyZpX _ | ldyAbsX _
  | cpxZp _ | cpxAbs _ | cpyZp _ | cpyAbs _ | bitZp _ | bitAbs _ =>
    exact .read _ _ rfl rfl fun s => (exec_shapes _ s).2.1 _ _ rfl rfl
  | staIndX _ | staZp _ | staAbs _ | staIndY _ | staZpX _ | staAbsY _ | staAbsX _
  | stxZp _ | stxAbs _ | stxZpY _ | styZp _ | styAbs _ | styZpX _ =>
    exact .store _ _ rfl rfl fun s => (exec_shapes _ s).2.2.1 _ _ rfl rfl
  | aslZp _ | aslAbs _ | aslZpX _ | aslAbsX _ | lsrZp _ | lsrAbs _ | lsrZpX _ | lsrAbsX _
  | rolZp _ | rolAbs _ | rolZpX _ | rolAbsX _ | rorZp _ | rorAbs _ | rorZpX _ | rorAbsX _
  | incZp _ | incAbs _ | incZpX _ | incAbsX _ | decZp _ | decAbs _ | decZpX _ | decAbsX _ =>
    exact .modify _ _ rfl rfl fun s => (exec_shapes _ s).2.2.2.1 _ _ rfl rfl
  | aslAcc | lsrAcc | rolAcc | rorAcc =>
    exact .accumulator _ rfl rfl fun s => (exec_shapes _ s).2.2.2.2 _ rfl rfl
  | bcc d | bcs d | beq d | bne d | bmi d | bpl d | bvc d | bvs d => exact .branch _ _ d rfl rfl fun _ => rfl
  | clc => exact .implied _ .clc rfl fun _ => rfl
  | cld => exact .implied _ .cld rfl fun _ => rfl
  | cli => exact .implied _ .cli rfl fun _ => rfl
  | clv => exact .implied _ .clv rfl fun _ => rfl
  | sec => exact .implied _ .sec rfl fun _ => rfl
  | sed => exact .implied _ .sed rfl fun _ => rfl
  | sei => exact .implied _ .sei rfl fun _ => rfl
  | tax => exact .implied _ .tax rfl fun _ => rfl
  | tay => exact .implied _ .tay rfl fun _ => rfl
  | txa => exact .implied _ .txa rfl fun _ => rfl
  | tya => exact .implied _ .tya rfl fun _ => rfl
  | tsx => exact .implied _ .tsx rfl fun _ => rfl
  | txs => exact .implied _ .txs rfl fun _ => rfl
  | inx => exact .implied _ .inx rfl fun _ => rfl
  | iny => exact .implied _ .iny rfl fun _ => rfl
  | dex => exact .implied _ .dex rfl fun _ => rfl
  | dey => exact .implied _ .dey rfl fun _ => rfl
  | nop => exact .implied _ .nop rfl fun _ => rfl
  | jmpAbs w => exact .plain _ (.jmpAbs w) fun _ => rfl
  | jmpInd w => exact .plain _ (.jmpInd w) fun _ => rfl
  | jsr w => exact .plain _ (.jsr w) fun _ => rfl
  | rts => exact .plain _ .rts fun _ => rfl
  | pha => exact .plain _ .pha fun _ => rfl
  | php => exact .plain _ .php fun _ => rfl
  | pla => exact .plain _ .pla fun _ => rfl
  | plp => exact .plain _ .plp fun _ => rfl
  | brk => exact .plain _ .brk fun _ => rfl
  | rti => exact .plain _ .rti fun _ => rfl

/-- The length of an instruction with a memory operand is the one its shape passes. -/
theorem memLength_of_operand {i : Instr} {m : MemOperand} (ho : i.operand = .memory m) : memLength m = i.length := by
  rw [Instr.length, ho]; rfl

end Sys2Proof.Proofs

/-! SUPPORT. What a completed instruction leaves unchanged (10_state.md R20 to R33, 20_memory.md R57): one rule per
register write and per shared operation, then one lemma per shape of `exec_shape`. -/
namespace Sys2Proof.Proofs

open Sys2Proof.Machine Sys2Proof.Claims Sys2Proof.Laws

variable {mn : Mnemonic}

/-! ## Flags of a status byte -/

/-- Every flag that the mnemonic does not write is the same in both status bytes. -/
def FlagsKept (mn : Mnemonic) (p q : Byte) : Prop := ∀ f, mn ∉ flagWriters f → flag f q = flag f p

theorem FlagsKept.refl (p : Byte) : FlagsKept mn p p := fun _ _ => rfl

theorem FlagsKept.trans {p q r : Byte} (h : FlagsKept mn p q) (g : FlagsKept mn q r) : FlagsKept mn p r :=
  fun f hf => (g f hf).trans (h f hf)

theorem flagsKept_setFlag {g : Flag} (hg : mn ∈ flagWriters g) (on : Bool) (p : Byte) :
    FlagsKept mn p (setFlag g on p) := fun _ hf => flag_setFlag_ne (by rintro rfl; exact hf hg) on p

/-- N and Z have the same writers, so writing Z allows writing both. -/
theorem flagsKept_setNZ (hz : mn ∈ flagWriters .z) (v p : Byte) : FlagsKept mn p (setNZ v p) :=
  (flagsKept_setFlag (g := .n) hz _ _).trans (flagsKept_setFlag hz _ _)

theorem flagsKept_setAddFlags (hc : mn ∈ flagWriters .c) (hv : mn ∈ flagWriters .v) (hz : mn ∈ flagWriters .z)
    (r : Byte × Bool × Bool) (p : Byte) : FlagsKept mn p (setAddFlags r p) :=
  ((flagsKept_setFlag hc _ _).trans (flagsKept_setFlag hv _ _)).trans (flagsKept_setNZ hz _ _)

theorem flagsKept_compareFlags (hc : mn ∈ flagWriters .c) (hz : mn ∈ flagWriters .z) (reg m p : Byte) :
    FlagsKept mn p (compareFlags reg m p) := (flagsKept_setFlag hc _ _).trans (flagsKept_setNZ hz _ _)

theorem flagsKept_bitFlags (hz : mn ∈ flagWriters .z) (hv : mn ∈ flagWriters .v) (a m p : Byte) :
    FlagsKept mn p (bitFlags a m p) :=
  ((flagsKept_setFlag hz _ _).trans (flagsKept_setFlag (g := .n) hz _ _)).trans (flagsKept_setFlag hv _ _)

/-! ## The frame of an instruction, and its rule for each register write -/

/-- Nothing differs between the two states but what the mnemonic may write. -/
structure Frame (mn : Mnemonic) (s t : State) : Prop where
  a     : mn ∉ writersOfA → t.a = s.a
  x     : mn ∉ writersOfX → t.x = s.x
  y     : mn ∉ writersOfY → t.y = s.y
  sp    : mn ∉ writersOfS → t.sp = s.sp
  mem   : mn ∉ writersOfMemory → t.mem = s.mem
  pc    : mn ∉ controlTransfers → t.pc = s.pc
  flags : FlagsKept mn s.p t.p

theorem Frame.refl (s : State) : Frame mn s s :=
  ⟨fun _ => rfl, fun _ => rfl, fun _ => rfl, fun _ => rfl, fun _ => rfl, fun _ => rfl, .refl _⟩

theorem Frame.trans {s t u : State} (h : Frame mn s t) (g : Frame mn t u) : Frame mn s u :=
  ⟨fun w => (g.a w).trans (h.a w), fun w => (g.x w).trans (h.x w), fun w => (g.y w).trans (h.y w),
   fun w => (g.sp w).trans (h.sp w), fun w => (g.mem w).trans (h.mem w), fun w => (g.pc w).trans (h.pc w),
   h.flags.trans g.flags⟩

variable {s t : State}

theorem Frame.setA (h : Frame mn s t) (hw : mn ∈ writersOfA) (v : Byte) : Frame mn s (t.setA v) :=
  { h with a := fun w => absurd hw w }

theorem Frame.setX (h : Frame mn s t) (hw : mn ∈ writersOfX) (v : Byte) : Frame mn s (t.setX v) :=
  { h with x := fun w => absurd hw w }

theorem Frame.setY (h : Frame mn s t) (hw : mn ∈ writersOfY) (v : Byte) : Frame mn s (t.setY v) :=
  { h with y := fun w => absurd hw w }

theorem Frame.setSp (h : Frame mn s t) (hw : mn ∈ writersOfS) (v : Byte) : Frame mn s (t.setSp v) :=
  { h with sp := fun w => absurd hw w }

theorem Frame.setMem (h : Frame mn s t) (hw : mn ∈ writersOfMemory) (m : Memory) : Frame mn s (t.setMem m) :=
  { h with mem := fun w => absurd hw w }

theorem Frame.setPc (h : Frame mn s t) (hw : mn ∈ controlTransfers) (v : Addr) : Frame mn s (t.setPc v) :=
  { h with pc := fun w => absurd hw w }

theorem Frame.setP (h : Frame mn s t) {q : Byte} (hq : FlagsKept mn t.p q) : Frame mn s (t.setP q) :=
  { h with flags := h.flags.trans hq }

theorem Frame.withNZ (h : Frame mn s t) (hz : mn ∈ flagWriters .z) (v : Byte) : Frame mn s (t.withNZ v) :=
  h.setP (flagsKept_setNZ hz v t.p)

theorem Frame.complete (h : Frame mn s t) (n : Nat) : Frame mn s (t.complete n) := { h with }

/-! ## The effects -/

theorem frame_addToA (ha : mn ∈ writersOfA) (hc : mn ∈ flagWriters .c) (hv : mn ∈ flagWriters .v)
    (hz : mn ∈ flagWriters .z) (m : Byte) (s : State) : Frame mn s (addToA m s) :=
  ((Frame.refl s).setA ha _).setP (flagsKept_setAddFlags hc hv hz _ _)

theorem readEffect_frame {g : Byte → State → State} (hg : readEffect mn = some g) (v : Byte) (s : State) :
    Frame mn s (g v s) := by
  cases mn <;> cases hg
  case lda => exact ((Frame.refl s).setA (by decide) v).withNZ (by decide) v
  case ldx => exact ((Frame.refl s).setX (by decide) v).withNZ (by decide) v
  case ldy => exact ((Frame.refl s).setY (by decide) v).withNZ (by decide) v
  case adc | sbc => exact frame_addToA (by decide) (by decide) (by decide) (by decide) _ s
  case and | ora | eor => exact ((Frame.refl s).setA (by decide) _).withNZ (by decide) _
  case cmp | cpx | cpy => exact (Frame.refl s).setP (flagsKept_compareFlags (by decide) (by decide) _ _ _)
  case bit => exact (Frame.refl s).setP (flagsKept_bitFlags (by decide) (by decide) _ _ _)

/-- A read-modify-write writes memory and no flag but its own: a shift C, N and Z (44_shift_rotate.md R190 to R193),
INC and DEC N and Z (45_incdec.md R210, R211). -/
theorem modifyEffect_frame {g : Byte → Byte → Byte × Byte} (hg : modifyEffect mn = some g) :
    mn ∈ writersOfMemory ∧ ∀ v p, FlagsKept mn p (g v p).2 := by
  have shift (hc : mn ∈ flagWriters .c) (hz : mn ∈ flagWriters .z) (c : Bool) (r p : Byte) :
      FlagsKept mn p (setNZ r (setFlag .c c p)) := (flagsKept_setFlag hc c p).trans (flagsKept_setNZ hz r _)
  cases mn <;> cases hg
  case asl | lsr | rol | ror => exact ⟨by decide, fun _ _ => shift (by decide) (by decide) _ _ _⟩
  case inc | dec => exact ⟨by decide, fun _ _ => flagsKept_setNZ (by decide) _ _⟩

theorem storeSource_writes {r : State → Byte} (hr : storeSource mn = some r) : mn ∈ writersOfMemory := by
  cases mn <;> cases hr
  case sta | stx | sty => decide

theorem branchTest_transfers {b : Flag × Bool} (hb : branchTest mn = some b) : mn ∈ controlTransfers := by
  cases mn <;> cases hb
  case bcc | bcs | beq | bne | bmi | bpl | bvc | bvs => decide

theorem impliedEffect_frame {g : State → State} (hg : ImpliedEffect mn g) (s : State) : Frame mn s (g s) := by
  cases hg with
  | clc | cld | cli | clv | sec | sed | sei => exact (Frame.refl s).setP (flagsKept_setFlag (by decide) _ _)
  | tax | tsx | inx | dex => exact ((Frame.refl s).setX (by decide) _).withNZ (by decide) _
  | tay | iny | dey => exact ((Frame.refl s).setY (by decide) _).withNZ (by decide) _
  | txa | tya => exact ((Frame.refl s).setA (by decide) _).withNZ (by decide) _
  | txs => exact (Frame.refl s).setSp (by decide) _
  | nop => exact .refl s

/-! ## The stack -/

theorem frame_push (hm : mn ∈ writersOfMemory) (hs : mn ∈ writersOfS) {v : Byte} (h : push v s = .ok t) :
    Frame mn s t := by
  by_cases hb : (stackAddr s.sp).toNat < s.memSize
  · rw [push_ok hb] at h; cases h
    exact ((Frame.refl s).setMem hm (Memory.write s.mem (stackAddr s.sp).toNat v)).setSp hs (s.sp - 1#8)
  · rw [push_out hb] at h; cases h

theorem frame_pull (hs : mn ∈ writersOfS) {v : Byte} (h : pull s = .ok (v, t)) : Frame mn s t := by
  by_cases hb : (stackAddr (s.sp + 1#8)).toNat < s.memSize
  · rw [pull_ok hb] at h; cases h
    exact (Frame.refl s).setSp hs _
  · rw [pull_out hb] at h; cases h

theorem frame_pushWord (hm : mn ∈ writersOfMemory) (hs : mn ∈ writersOfS) {w : Addr} (h : pushWord w s = .ok t) :
    Frame mn s t := by
  unfold pushWord at h
  split at h
  · cases h
  · next h1 => exact (frame_push hm hs h1).trans (frame_push hm hs h)

theorem frame_pullWord (hs : mn ∈ writersOfS) {w : Addr} (h : pullWord s = .ok (w, t)) : Frame mn s t := by
  unfold pullWord at h
  split at h
  · cases h
  · next h1 =>
    split at h
    · cases h
    · next h2 => cases h; exact (frame_pull hs h1).trans (frame_pull hs h2)

theorem frame_callSub {w : Addr} (h : callSub w s = .ok t) : Frame .jsr s t := by
  unfold callSub at h
  split at h <;> cases h
  next h1 => exact (frame_pushWord (by decide) (by decide) h1).setPc (by decide) _

theorem frame_returnFromSub (h : returnFromSub s = .ok t) : Frame .rts s t := by
  unfold returnFromSub at h
  split at h <;> cases h
  next h1 => exact (frame_pullWord (by decide) h1).setPc (by decide) _

theorem frame_jumpIndirect {w : Addr} (h : jumpIndirect w s = .ok t) : Frame .jmp s t := by
  unfold jumpIndirect at h
  split at h <;> cases h
  exact (Frame.refl s).setPc (by decide) _

theorem frame_pullA (h : pullA s = .ok t) : Frame .pla s t := by
  unfold pullA at h
  split at h <;> cases h
  next h1 => exact ((frame_pull (by decide) h1).setA (by decide) _).withNZ (by decide) _

/-- PLP and RTI are writers of every flag. -/
theorem mem_flagWriters_of_pulls (h : mn ∈ [Mnemonic.plp, .rti]) (f : Flag) : mn ∈ flagWriters f := by
  have hall : ∀ m ∈ [Mnemonic.plp, .rti], m ∈ flagWriters f := by cases f <;> decide
  exact hall mn h

theorem flagsKept_of_pulls (h : mn ∈ [Mnemonic.plp, .rti]) (p q : Byte) : FlagsKept mn p q :=
  fun f hf => absurd (mem_flagWriters_of_pulls h f) hf

theorem frame_pullP (h : pullP s = .ok t) : Frame .plp s t := by
  unfold pullP at h
  split at h <;> cases h
  next h1 => exact (frame_pull (by decide) h1).setP (flagsKept_of_pulls (by decide) _ _)

theorem frame_enterInterrupt {pushed : Byte} {vector : Addr} (h : enterInterrupt pushed vector s = .ok t) :
    Frame .brk s t := by
  unfold enterInterrupt at h
  split at h
  · cases h
  · next h1 =>
    split at h
    · cases h
    · next h2 =>
      dsimp only at h
      split at h <;> cases h
      exact (((frame_pushWord (by decide) (by decide) h1).trans (frame_push (by decide) (by decide) h2)).setP
        (flagsKept_setFlag (by decide) _ _)).setPc (by decide) _

theorem frame_returnFromInterrupt (h : returnFromInterrupt s = .ok t) : Frame .rti s t := by
  unfold returnFromInterrupt at h
  split at h
  · cases h
  · next h1 =>
    split at h <;> cases h
    next h2 =>
      exact (((frame_pull (by decide) h1).setP (flagsKept_of_pulls (by decide) _ _)).trans
        (frame_pullWord (by decide) h2)).setPc (by decide) _

theorem plainEffect_frame {i : Instr} {g : State → Res State} (hg : PlainEffect i g) {s t : State}
    (h : g s = .ok t) : Frame i.mnemonic s t := by
  cases hg with
  | jmpAbs w => cases h; exact Frame.setPc (mn := .jmp) (.refl s) (by decide) w
  | jmpInd w => exact frame_jumpIndirect h
  | jsr w => exact frame_callSub h
  | rts => exact frame_returnFromSub h
  | pha | php => exact frame_push (by decide) (by decide) h
  | pla => exact frame_pullA h
  | plp => exact frame_pullP h
  | brk => exact frame_enterInterrupt h
  | rti => exact frame_returnFromInterrupt h

/-! ## The shapes -/

theorem frame_runPlain {op : Byte} {len : Nat} {g : State → Res State} (hg : ∀ u v, g u = .ok v → Frame mn u v)
    (h : runPlain op len g s = .next t) : Frame mn (s.advance len) t := by
  unfold runPlain at h
  cases hu : g (s.advance len) with
  | error f => rw [hu] at h; cases h
  | ok u => rw [hu] at h; cases h; exact (hg _ _ hu).complete _

theorem frame_runImplied {op : Byte} {g : State → State} (hg : ∀ u, Frame mn u (g u))
    (h : runImplied op g s = .next t) : Frame mn (s.advance 1) t :=
  frame_runPlain (fun u _ hu => by cases hu; exact hg u) h

theorem frame_readImmediate {op v : Byte} {g : Byte → State → State} (hg : ∀ u, Frame mn u (g v u))
    (h : readImmediate op v g s = .next t) : Frame mn (s.advance 2) t :=
  frame_runPlain (fun u _ hu => by cases hu; exact hg u) h

/-- A shape that stopped has no next state. -/
theorem stopsAfter_not_next {k : Nat} (h : StopsAfter s k (.next t)) : False := by
  obtain ⟨e, -, he⟩ := h
  cases he

theorem frame_readMemory {op : Byte} {m : MemOperand} {g : Byte → State → State} (hg : ∀ v u, Frame mn u (g v u))
    (h : readMemory op m g s = .next t) : Frame mn (s.advance (memLength m)) t := by
  rcases readMemory_cases op m g s with ⟨v, c, hn⟩ | hf
  · rw [hn] at h; cases h; exact (hg v _).complete _
  · exact (stopsAfter_not_next (h ▸ hf)).elim

theorem frame_storeMemory {op : Byte} {m : MemOperand} {v : Byte} (hm : mn ∈ writersOfMemory)
    (h : storeMemory op m v s = .next t) : Frame mn (s.advance (memLength m)) t := by
  rcases storeMemory_cases op m v s with ⟨ea, c, -, hn⟩ | hf
  · rw [hn] at h; cases h; exact ((Frame.refl _).setMem hm _).complete _
  · exact (stopsAfter_not_next (h ▸ hf)).elim

theorem frame_modifyMemory {op : Byte} {m : MemOperand} {g : Byte → Byte → Byte × Byte}
    (hm : mn ∈ writersOfMemory) (hg : ∀ v p, FlagsKept mn p (g v p).2) (h : modifyMemory op m g s = .next t) :
    Frame mn (s.advance (memLength m)) t := by
  rcases modifyMemory_cases op m g s with ⟨ea, v, c, -, hn⟩ | hf
  · rw [hn] at h; cases h; exact (((Frame.refl _).setMem hm _).setP (hg v _)).complete _
  · exact (stopsAfter_not_next (h ▸ hf)).elim

theorem frame_modifyAcc {op : Byte} {g : Byte → Byte → Byte × Byte} (ha : mn ∈ writersOfA)
    (hg : ∀ v p, FlagsKept mn p (g v p).2) (h : modifyAcc op g s = .next t) : Frame mn (s.advance 1) t :=
  frame_runImplied (fun u => ((Frame.refl u).setA ha (g u.a u.p).1).setP (hg u.a _)) h

theorem frame_branchIf {op d : Byte} {f : Flag} {on : Bool} (hp : mn ∈ controlTransfers)
    (h : branchIf op f on d s = .next t) : Frame mn (s.advance 2) t := by
  unfold branchIf at h
  dsimp only at h
  split at h <;> cases h
  · exact ((Frame.refl _).setPc hp _).complete _
  · exact (Frame.refl _).complete _

/-- The instructions with an accumulator operand write A (44_shift_rotate.md R190 to R193). -/
theorem accumulator_writesA {i : Instr} (ho : i.operand = .accumulator) : i.mnemonic ∈ writersOfA := by
  cases i <;> cases ho
  case aslAcc | lsrAcc | rolAcc | rorAcc => decide

/-- A completed instruction passes its own bytes and changes nothing but what its mnemonic may write. -/
theorem exec_frame {i : Instr} {s t : State} (h : exec i s = .next t) : Frame i.mnemonic (s.advance i.length) t := by
  cases exec_shape i with
  | immediate g v hg ho he =>
    rw [he] at h; rw [Instr.length, ho]
    exact frame_readImmediate (readEffect_frame hg v) h
  | read g m hg ho he =>
    rw [he] at h; rw [← memLength_of_operand ho]
    exact frame_readMemory (readEffect_frame hg) h
  | store r m hr ho he =>
    rw [he] at h; rw [← memLength_of_operand ho]
    exact frame_storeMemory (storeSource_writes hr) h
  | modify g m hg ho he =>
    obtain ⟨hm, hq⟩ := modifyEffect_frame hg
    rw [he] at h; rw [← memLength_of_operand ho]
    exact frame_modifyMemory hm hq h
  | accumulator g hg ho he =>
    rw [he] at h; rw [Instr.length, ho]
    exact frame_modifyAcc (accumulator_writesA ho) (modifyEffect_frame hg).2 h
  | branch f on d hb ho he =>
    rw [he] at h; rw [Instr.length, ho]
    exact frame_branchIf (branchTest_transfers hb) h
  | implied g hg ho he =>
    rw [he] at h; rw [Instr.length, ho]
    exact frame_runImplied (impliedEffect_frame hg) h
  | plain g hg he =>
    rw [he] at h
    exact frame_runPlain (fun _ _ => plainEffect_frame hg) h

end Sys2Proof.Proofs

/-! SUPPORT. Nothing but the pushes of P reads D, B or R (10_state.md R29 to R31, 43_arith_logic.md R174): changing such
a flag commutes with every effect, with every shape of `exec_shape`, and so with every instruction. -/
namespace Sys2Proof.Proofs

open Sys2Proof.Machine Sys2Proof.Claims Sys2Proof.Laws

/-- The state with one flag of P changed. -/
def repaint (f : Flag) (on : Bool) (s : State) : State := s.setP (setFlag f on s.p)

/-- A fault with a change made to the state it carries. -/
def mapFault (k : State → State) : Fault → Fault
  | .raised e t => .raised e (k t)
  | .alreadyFaulted e t => .alreadyFaulted e (k t)

/-- An operation's answer with one change made to its result and one to the state of its fault. -/
def mapRes {α : Type} (out : α → α) (k : State → State) : Res α → Res α
  | .ok x => .ok (out x)
  | .error f => .error (mapFault k f)

/-- An outcome with a change made to the state it carries. -/
def mapOutcome (k : State → State) : Host.Outcome State Fault Refusal → Host.Outcome State Fault Refusal
  | .next t => .next (k t)
  | .fault f => .fault (mapFault k f)
  | .refused r => .refused r

variable (f : Flag) (on : Bool)

@[simp] theorem repaint_a (s : State) : (repaint f on s).a = s.a := rfl
@[simp] theorem repaint_sp (s : State) : (repaint f on s).sp = s.sp := rfl
@[simp] theorem repaint_pc (s : State) : (repaint f on s).pc = s.pc := rfl
@[simp] theorem repaint_p (s : State) : (repaint f on s).p = setFlag f on s.p := rfl

/-! ## The operations that do not look at P -/

theorem advance_repaint (n : Nat) (s : State) : (repaint f on s).advance n = repaint f on (s.advance n) := rfl

theorem memRead_repaint (a : Addr) (s : State) : memRead a (repaint f on s) = memRead a s := rfl

theorem read16_repaint (a : Addr) (s : State) : read16 a (repaint f on s) = read16 a s := rfl

theorem resolve_repaint (m : MemOperand) (s : State) : resolve m (repaint f on s) = resolve m s := by
  cases m <;> rfl

theorem memWrite_repaint (a : Addr) (v : Byte) (s : State) :
    memWrite a v (repaint f on s) = mapRes (repaint f on) (repaint f on) (memWrite a v s) := by
  by_cases h : a.toNat < s.memSize
  · rw [memWrite_ok h, memWrite_ok (by exact h)]; rfl
  · rw [memWrite_out h, memWrite_out (by exact h)]; rfl

theorem push_repaint (v : Byte) (s : State) :
    push v (repaint f on s) = mapRes (repaint f on) (repaint f on) (push v s) := by
  unfold push
  rw [repaint_sp, memWrite_repaint]
  cases memWrite (stackAddr s.sp) v s <;> rfl

theorem pull_repaint (s : State) :
    pull (repaint f on s) = mapRes (Prod.map id (repaint f on)) (repaint f on) (pull s) := by
  by_cases h : (stackAddr (s.sp + 1#8)).toNat < s.memSize
  · rw [pull_ok h, pull_ok (by exact h)]; rfl
  · rw [pull_out h, pull_out (by exact h)]; rfl

theorem pushWord_repaint (w : Addr) (s : State) :
    pushWord w (repaint f on s) = mapRes (repaint f on) (repaint f on) (pushWord w s) := by
  unfold pushWord
  rw [push_repaint]
  cases push (hiByte w) s with
  | error e => rfl
  | ok t => exact push_repaint f on (loByte w) t

theorem pullWord_repaint (s : State) :
    pullWord (repaint f on s) = mapRes (Prod.map id (repaint f on)) (repaint f on) (pullWord s) := by
  unfold pullWord
  rw [pull_repaint]
  cases pull s with
  | error e => rfl
  | ok r =>
    obtain ⟨lo, t⟩ := r
    dsimp only [mapRes, Prod.map]
    rw [pull_repaint]
    cases pull t <;> rfl

theorem callSub_repaint (w : Addr) (s : State) :
    callSub w (repaint f on s) = mapRes (repaint f on) (repaint f on) (callSub w s) := by
  unfold callSub
  rw [repaint_pc, pushWord_repaint]
  cases pushWord (s.pc - 1#16) s <;> rfl

theorem returnFromSub_repaint (s : State) :
    returnFromSub (repaint f on s) = mapRes (repaint f on) (repaint f on) (returnFromSub s) := by
  unfold returnFromSub
  rw [pullWord_repaint]
  cases pullWord s <;> rfl

theorem jumpIndirect_repaint (w : Addr) (s : State) :
    jumpIndirect w (repaint f on s) = mapRes (repaint f on) (repaint f on) (jumpIndirect w s) := by
  unfold jumpIndirect
  rw [read16_repaint]
  cases read16 w s <;> rfl

theorem storeSource_repaint {mn : Mnemonic} {r : State → Byte} (hr : storeSource mn = some r) (s : State) :
    r (repaint f on s) = r s := by
  cases mn <;> cases hr
  case sta | stx | sty => rfl

/-! ## The flag computations -/

variable {f}

/-- C, Z, I, V and N are none of the three flags. -/
theorem ne_of_unread {g : Flag} (hf : f ∈ [Flag.d, .b, .r]) (hg : g ∉ [Flag.d, .b, .r]) : f ≠ g := by
  rintro rfl
  exact hg hf

section
variable (hf : f ∈ [Flag.d, .b, .r])
include hf

theorem setFlag_repaint {g : Flag} (hg : g ∉ [Flag.d, .b, .r]) (c : Bool) (p : Byte) :
    setFlag g c (setFlag f on p) = setFlag f on (setFlag g c p) :=
  (setFlag_comm (ne_of_unread hf hg) on c p).symm

theorem carry_repaint (p : Byte) : flag .c (setFlag f on p) = flag .c p :=
  flag_setFlag_ne (ne_of_unread hf (by decide)).symm on p

theorem setNZ_repaint (v p : Byte) : setNZ v (setFlag f on p) = setFlag f on (setNZ v p) := by
  unfold setNZ
  rw [setFlag_repaint on hf (by decide), setFlag_repaint on hf (by decide)]

theorem setAddFlags_repaint (r : Byte × Bool × Bool) (p : Byte) :
    setAddFlags r (setFlag f on p) = setFlag f on (setAddFlags r p) := by
  unfold setAddFlags
  rw [setFlag_repaint on hf (by decide), setFlag_repaint on hf (by decide), setNZ_repaint on hf]

theorem compareFlags_repaint (reg m p : Byte) :
    compareFlags reg m (setFlag f on p) = setFlag f on (compareFlags reg m p) := by
  unfold compareFlags
  rw [setFlag_repaint on hf (by decide), setNZ_repaint on hf]

theorem bitFlags_repaint (a m p : Byte) : bitFlags a m (setFlag f on p) = setFlag f on (bitFlags a m p) := by
  unfold bitFlags
  rw [setFlag_repaint on hf (by decide), setFlag_repaint on hf (by decide), setFlag_repaint on hf (by decide)]

/-! ## The effects -/

theorem withNZ_repaint (v : Byte) (s : State) : (repaint f on s).withNZ v = repaint f on (s.withNZ v) :=
  congrArg s.setP (setNZ_repaint on hf v s.p)

theorem addToA_repaint (m : Byte) (s : State) : addToA m (repaint f on s) = repaint f on (addToA m s) := by
  unfold addToA
  rw [repaint_p, carry_repaint on hf, repaint_a]
  exact congrArg (s.setA _).setP (setAddFlags_repaint on hf _ s.p)

theorem readEffect_repaint {mn : Mnemonic} {g : Byte → State → State} (hg : readEffect mn = some g) (v : Byte)
    (s : State) : g v (repaint f on s) = repaint f on (g v s) := by
  cases mn <;> cases hg
  case lda => exact withNZ_repaint on hf v (s.setA v)
  case ldx => exact withNZ_repaint on hf v (s.setX v)
  case ldy => exact withNZ_repaint on hf v (s.setY v)
  case adc | sbc => exact addToA_repaint on hf _ s
  case and | ora | eor => exact withNZ_repaint on hf _ (s.setA _)
  case cmp | cpx | cpy => exact congrArg s.setP (compareFlags_repaint on hf _ v s.p)
  case bit => exact congrArg s.setP (bitFlags_repaint on hf s.a v s.p)

/-- The byte that a read-modify-write gives is the same, and its P differs in the changed flag only. -/
theorem modifyEffect_repaint {mn : Mnemonic} {g : Byte → Byte → Byte × Byte} (hg : modifyEffect mn = some g)
    (v p : Byte) : g v (setFlag f on p) = ((g v p).1, setFlag f on (g v p).2) := by
  have shift (r : Byte) (c : Bool) :
      setNZ r (setFlag .c c (setFlag f on p)) = setFlag f on (setNZ r (setFlag .c c p)) := by
    rw [setFlag_repaint on hf (by decide), setNZ_repaint on hf]
  cases mn <;> cases hg
  case asl | lsr => exact congrArg (Prod.mk _) (shift _ _)
  case rol => simp only [shiftRol, carry_repaint on hf, shift]
  case ror => simp only [shiftRor, carry_repaint on hf, shift]
  case inc | dec => exact congrArg (Prod.mk _) (setNZ_repaint on hf _ p)

theorem impliedEffect_repaint {mn : Mnemonic} {g : State → State} (hg : ImpliedEffect mn g)
    (hw : mn ∉ flagWriters f) (s : State) : g (repaint f on s) = repaint f on (g s) := by
  -- A flag that the mnemonic writes is another flag than the changed one.
  have write {k : Flag} (hk : mn ∈ flagWriters k) (c : Bool) :
      setFlag k c (setFlag f on s.p) = setFlag f on (setFlag k c s.p) :=
    (setFlag_comm (by rintro rfl; exact hw hk) on c s.p).symm
  cases hg with
  | clc | cld | cli | clv | sec | sed | sei => exact congrArg s.setP (write (by decide) _)
  | tax | tsx | inx | dex => exact withNZ_repaint on hf _ (s.setX _)
  | tay | iny | dey => exact withNZ_repaint on hf _ (s.setY _)
  | txa | tya => exact withNZ_repaint on hf _ (s.setA _)
  | txs => rfl
  | nop => rfl

theorem pullA_repaint (s : State) : pullA (repaint f on s) = mapRes (repaint f on) (repaint f on) (pullA s) := by
  unfold pullA
  rw [pull_repaint]
  cases pull s with
  | error e => rfl
  | ok r => exact congrArg Except.ok (withNZ_repaint on hf r.1 (r.2.setA r.1))

/-- BRK, PHP, PLP and RTI are shut out: the first two push P, the others write every flag. -/
theorem plainEffect_repaint {i : Instr} {g : State → Res State} (hg : PlainEffect i g)
    (hw : i.mnemonic ∉ flagWriters f) (hp : i.mnemonic ∉ [Mnemonic.php, .brk]) (s : State) :
    g (repaint f on s) = mapRes (repaint f on) (repaint f on) (g s) := by
  cases hg with
  | jmpAbs w => rfl
  | jmpInd w => exact jumpIndirect_repaint f on w s
  | jsr w => exact callSub_repaint f on w s
  | rts => exact returnFromSub_repaint f on s
  | pha => exact push_repaint f on s.a s
  | pla => exact pullA_repaint on hf s
  | plp | rti => exact absurd (mem_flagWriters_of_pulls (by decide) f) hw
  | php | brk => exact absurd (by decide) hp

end

/-! ## The shapes -/

theorem runPlain_repaint {g : State → Res State}
    (hg : ∀ u, g (repaint f on u) = mapRes (repaint f on) (repaint f on) (g u)) (op : Byte) (len : Nat) (s : State) :
    runPlain op len g (repaint f on s) = mapOutcome (repaint f on) (runPlain op len g s) := by
  unfold runPlain
  rw [advance_repaint, hg]
  cases g (s.advance len) <;> rfl

theorem runImplied_repaint {g : State → State} (hg : ∀ u, g (repaint f on u) = repaint f on (g u)) (op : Byte)
    (s : State) : runImplied op g (repaint f on s) = mapOutcome (repaint f on) (runImplied op g s) :=
  runPlain_repaint on (fun u => by simp only [hg, mapRes]) op 1 s

theorem readImmediate_repaint {g : Byte → State → State} {v : Byte}
    (hg : ∀ u, g v (repaint f on u) = repaint f on (g v u)) (op : Byte) (s : State) :
    readImmediate op v g (repaint f on s) = mapOutcome (repaint f on) (readImmediate op v g s) :=
  runPlain_repaint on (fun u => by simp only [hg, mapRes]) op 2 s

theorem readMemory_repaint {g : Byte → State → State} (hg : ∀ v u, g v (repaint f on u) = repaint f on (g v u))
    (op : Byte) (m : MemOperand) (s : State) :
    readMemory op m g (repaint f on s) = mapOutcome (repaint f on) (readMemory op m g s) := by
  unfold readMemory
  simp only [advance_repaint, resolve_repaint, memRead_repaint, hg]
  cases resolve m (s.advance (memLength m)) with
  | error e => rfl
  | ok r => dsimp only; cases memRead r.1 (s.advance (memLength m)) <;> rfl

theorem storeMemory_repaint (op : Byte) (m : MemOperand) (v : Byte) (s : State) :
    storeMemory op m v (repaint f on s) = mapOutcome (repaint f on) (storeMemory op m v s) := by
  unfold storeMemory
  simp only [advance_repaint, resolve_repaint, memWrite_repaint]
  cases resolve m (s.advance (memLength m)) with
  | error e => rfl
  | ok r => dsimp only; cases memWrite r.1 v (s.advance (memLength m)) <;> rfl

theorem modifyMemory_repaint {g : Byte → Byte → Byte × Byte}
    (hg : ∀ v p, g v (setFlag f on p) = ((g v p).1, setFlag f on (g v p).2)) (op : Byte) (m : MemOperand)
    (s : State) : modifyMemory op m g (repaint f on s) = mapOutcome (repaint f on) (modifyMemory op m g s) := by
  unfold modifyMemory
  simp only [advance_repaint, resolve_repaint, memRead_repaint, repaint_p, hg, memWrite_repaint]
  cases resolve m (s.advance (memLength m)) with
  | error e => rfl
  | ok r =>
    dsimp only
    cases memRead r.1 (s.advance (memLength m)) with
    | error e => rfl
    | ok v => dsimp only; cases memWrite r.1 (g v (s.advance (memLength m)).p).1 (s.advance (memLength m)) <;> rfl

theorem modifyAcc_repaint {g : Byte → Byte → Byte × Byte}
    (hg : ∀ v p, g v (setFlag f on p) = ((g v p).1, setFlag f on (g v p).2)) (op : Byte) (s : State) :
    modifyAcc op g (repaint f on s) = mapOutcome (repaint f on) (modifyAcc op g s) :=
  runImplied_repaint on (fun u => by rw [repaint_p, repaint_a, hg]; rfl) op s

/-- The branches test C, Z, N or V. -/
theorem branchTest_flag {mn : Mnemonic} {g : Flag} {b : Bool} (hb : branchTest mn = some (g, b)) :
    g ∉ [Flag.d, .b, .r] := by
  cases mn <;> cases hb
  case bcc | bcs | beq | bne | bmi | bpl | bvc | bvs => decide

theorem branchIf_repaint {g : Flag} (hg : g ≠ f) (op : Byte) (b : Bool) (d : Byte) (s : State) :
    branchIf op g b d (repaint f on s) = mapOutcome (repaint f on) (branchIf op g b d s) := by
  unfold branchIf
  simp only [advance_repaint, repaint_p, flag_setFlag_ne hg]
  split <;> rfl

/-- Changing D, B or R before an instruction that neither writes it nor pushes P changes what the instruction answers
in that flag only. -/
theorem exec_repaint (hf : f ∈ [Flag.d, .b, .r]) {i : Instr} (hw : i.mnemonic ∉ flagWriters f)
    (hp : i.mnemonic ∉ [Mnemonic.php, .brk]) (s : State) :
    exec i (repaint f on s) = mapOutcome (repaint f on) (exec i s) := by
  cases exec_shape i with
  | immediate g v hg _ he => rw [he, he]; exact readImmediate_repaint on (readEffect_repaint on hf hg v) _ s
  | read g m hg _ he => rw [he, he]; exact readMemory_repaint on (readEffect_repaint on hf hg) _ m s
  | store r m hr _ he => rw [he, he, storeSource_repaint f on hr]; exact storeMemory_repaint on _ m _ s
  | modify g m hg _ he => rw [he, he]; exact modifyMemory_repaint on (modifyEffect_repaint on hf hg) _ m s
  | accumulator g hg _ he => rw [he, he]; exact modifyAcc_repaint on (modifyEffect_repaint on hf hg) _ s
  | branch g b d hb _ he => rw [he, he]; exact branchIf_repaint on (ne_of_unread hf (branchTest_flag hb)).symm _ b d s
  | implied g hg _ he => rw [he, he]; exact runImplied_repaint on (impliedEffect_repaint on hf hg hw) _ s
  | plain g hg he => rw [he, he]; exact runPlain_repaint on (plainEffect_repaint on hf hg hw hp) _ _ s

end Sys2Proof.Proofs

/-! The statements about the state (10_state.md). -/
namespace Sys2Proof.Proofs

open Sys2Proof.Machine Sys2Proof.Claims Sys2Proof.Laws

/-- Settles O18: the frame of a completed instruction, at P. -/
theorem flagsChangeOnlyByTheirWriters : Obligations.FlagsChangeOnlyByTheirWriters := by
  unfold Obligations.FlagsChangeOnlyByTheirWriters
  intro i s t f h hw
  exact (exec_frame h).flags f hw

/-- Settles O20: the change of an unread flag commutes with the instruction, completed or stopped. -/
theorem unreadFlagsDoNotInterfere : Obligations.UnreadFlagsDoNotInterfere := by
  unfold Obligations.UnreadFlagsDoNotInterfere
  intro f i s on hf hw hp
  have hc : exec i { s with p := setFlag f on s.p } = mapOutcome (repaint f on) (exec i s) :=
    exec_repaint on hf hw hp s
  refine ⟨fun t h => ?_, fun e t h => ?_⟩ <;> rw [hc, h] <;> rfl

/-- Settles O19: the frame of a completed instruction, at the registers and the memory image. -/
theorem registersChangeOnlyByTheirWriters : Obligations.RegistersChangeOnlyByTheirWriters := by
  unfold Obligations.RegistersChangeOnlyByTheirWriters
  intro i s t h
  obtain ⟨ha, hx, hy, hsp, hmem, hpc, -⟩ := exec_frame h
  exact ⟨ha, hx, hy, hsp, hmem, hpc⟩

theorem step_of_halted {s : State} (h : s.run = .halted) : step s = .next s := by
  unfold step
  rw [h]

theorem step_of_faulted {s : State} {e : FaultRecord} (h : s.run = .faulted e) :
    step s = .fault (.alreadyFaulted e s) := by
  unfold step
  rw [h]

/-- Settles O13: `step` answers at once when RUN is not Running. -/
theorem terminalStatesAreNotChangedByAStep : Obligations.TerminalStatesAreNotChangedByAStep := by
  unfold Obligations.TerminalStatesAreNotChangedByAStep
  exact ⟨fun _ => step_of_halted, fun _ _ => step_of_faulted⟩

end Sys2Proof.Proofs

/-! SUPPORT. What a read of the memory image returns (20_memory.md R50 to R52, R58): below every cell, at and beside a
cell, and after a write; a canonical image is determined by its reads. -/
namespace Sys2Proof.Proofs

open Sys2Proof.Machine

variable {a b k : Nat} {u v : Byte} {m n : Memory}

theorem read_cons (k : Nat) (u : Byte) (m : Memory) (a : Nat) :
    Memory.read ((k, u) :: m) a = if a = k then u else Memory.read m a := rfl

@[simp] theorem read_cons_self (k : Nat) (u : Byte) (m : Memory) : Memory.read ((k, u) :: m) k = u := if_pos rfl

@[simp] theorem above_cons : Memory.above b ((k, u) :: m) = true ↔ b < k ∧ Memory.above b m = true := by
  simp [Memory.above]

@[simp] theorem wf_cons :
    Memory.wf ((k, u) :: m) = true ↔ u ≠ Config.unlistedByte ∧ Memory.above k m = true ∧ Memory.wf m = true := by
  simp [Memory.wf, and_assoc]

/-- An address that lies below every cell is unlisted. -/
theorem read_of_above : ∀ {m : Memory}, Memory.above b m = true → a ≤ b → Memory.read m a = Config.unlistedByte
  | [], _, _ => rfl
  | (k, u) :: m, h, hle => by
    obtain ⟨hk, hm⟩ := above_cons.mp h
    rw [read_cons, if_neg (by omega), read_of_above hm hle]

/-- A cell put in front of higher cells is read at its own address, also when it is left out as unlisted. -/
theorem read_place (h : Memory.above a m = true) (v : Byte) (b : Nat) :
    Memory.read (Memory.place a v m) b = if b = a then v else Memory.read m b := by
  unfold Memory.place
  split
  next hv =>
    split
    next hb => rw [hv, read_of_above h hb.le]
    next => rfl
  next => exact read_cons a v m b

/-- The write searches the rising addresses: in front of the first higher cell, in place of the cell at its own
address, or further on. -/
theorem read_write (a b : Nat) (v : Byte) : ∀ {m : Memory}, Memory.wf m = true →
    Memory.read (Memory.write m a v) b = if b = a then v else Memory.read m b
  | [], _ => read_place rfl v b
  | (k, u) :: m, h => by
    obtain ⟨-, hk, hm⟩ := wf_cons.mp h
    simp only [Memory.write]
    split
    next hlt => exact read_place (above_cons.mpr ⟨hlt, Memory.above_mono hlt.le hk⟩) v b
    next =>
      split
      next heq =>
        subst heq
        rw [read_place hk, read_cons]
        split <;> rfl
      next hne =>
        rw [read_cons, read_cons, read_write a b v hm]
        split
        next hb => rw [if_neg (by omega)]
        next => rfl

/-- When canonical images read alike, the second lists no address below the first one's lowest. -/
theorem head_le_of_reads {j : Nat} (hm : Memory.wf ((k, u) :: m) = true) (hn : Memory.wf ((j, v) :: n) = true)
    (h : ∀ a, Memory.read ((k, u) :: m) a = Memory.read ((j, v) :: n) a) : k ≤ j := by
  obtain ⟨-, hk, -⟩ := wf_cons.mp hm
  obtain ⟨hv, -, -⟩ := wf_cons.mp hn
  by_contra hlt
  have hj := h j
  rw [read_cons, if_neg (by omega), read_of_above hk (by omega), read_cons_self] at hj
  exact hv hj.symm

/-- The tails of canonical images that read alike and begin with cells at one address read alike. -/
theorem tail_reads (hm : Memory.above k m = true) (hn : Memory.above k n = true)
    (h : ∀ a, Memory.read ((k, u) :: m) a = Memory.read ((k, v) :: n) a) (a : Nat) :
    Memory.read m a = Memory.read n a := by
  by_cases ha : a = k
  · rw [read_of_above hm ha.le, read_of_above hn ha.le]
  · simpa [read_cons, ha] using h a

/-- A listed cell is seen by a read, so an image with a cell does not read as the empty one. -/
theorem not_reads_empty (hm : Memory.wf ((k, u) :: m) = true) : Memory.read ((k, u) :: m) k ≠ Memory.read [] k := by
  obtain ⟨hu, -, -⟩ := wf_cons.mp hm
  rw [read_cons_self]; exact hu

theorem eq_of_reads : ∀ {m n : Memory}, Memory.wf m = true → Memory.wf n = true →
    (∀ a, Memory.read m a = Memory.read n a) → m = n
  | [], [], _, _, _ => rfl
  | [], (j, _) :: _, _, hn, h => absurd (h j).symm (not_reads_empty hn)
  | (k, _) :: _, [], hm, _, h => absurd (h k) (not_reads_empty hm)
  | (k, u) :: m, (j, v) :: n, hm, hn, h => by
    obtain rfl : k = j := le_antisymm (head_le_of_reads hm hn h) (head_le_of_reads hn hm fun a => (h a).symm)
    obtain rfl : u = v := by simpa using h k
    obtain ⟨-, hmk, hmw⟩ := wf_cons.mp hm
    obtain ⟨-, hnk, hnw⟩ := wf_cons.mp hn
    rw [eq_of_reads hmw hnw (tail_reads hmk hnk h)]

end Sys2Proof.Proofs

/-! SUPPORT. The addresses of the two-byte reads and of the stack as numbers (20_memory.md R53, R54, R60). -/
namespace Sys2Proof.Proofs

open Sys2Proof.Machine Sys2Proof.Claims

theorem byte_succ_toNat (b : Byte) : (b + 1#8).toNat = (b.toNat + 1) % 256 := BitVec.toNat_add b 1#8

theorem addr_succ_toNat (a : Addr) : (a + 1#16).toNat = (a.toNat + 1) % 65536 := BitVec.toNat_add a 1#16

theorem byte_pred_toNat (b : Byte) : (b - 1#8).toNat = (b.toNat + 255) % 256 := by
  rw [BitVec.toNat_sub, Nat.add_comm]; rfl

@[simp] theorem zext16_toNat (b : Byte) : (zext16 b).toNat = b.toNat := by
  have := b.isLt
  simp only [zext16, BitVec.toNat_setWidth]
  omega

/-- A pair of reads is little-endian, and names the first of its two addresses that is not backed. -/
theorem readPair_littleEndian (lo hi : Addr) (s : State) :
    (Backed s lo → Backed s hi → ∃ w, readPair lo hi s = .ok w ∧
      w.toNat = (Memory.read s.mem lo.toNat).toNat + 256 * (Memory.read s.mem hi.toNat).toNat) ∧
    (¬ Backed s lo → readPair lo hi s = .error (.outOfRange lo .read)) ∧
    (Backed s lo → ¬ Backed s hi → readPair lo hi s = .error (.outOfRange hi .read)) := by
  unfold Backed
  rcases readPair_cases lo hi s with ⟨hlo, hhi, h⟩ | ⟨hlo, h⟩ | ⟨hlo, hhi, h⟩
  · exact ⟨fun _ _ => ⟨_, h, by rw [word16_toNat]; omega⟩, fun g => absurd hlo g, fun _ g => absurd hhi g⟩
  · exact ⟨fun g => absurd g hlo, fun _ => h, fun g => absurd g hlo⟩
  · exact ⟨fun _ g => absurd g hhi, fun g => absurd hlo g, fun _ _ => h⟩

end Sys2Proof.Proofs

/-! SUPPORT. What an outcome leaves when it meets the invariant, and that every instruction does (20_memory.md R50 to
R52). -/
namespace Sys2Proof.Proofs

open Sys2Proof.Machine Sys2Proof.Laws

/-- The next state, or the state that a raised fault carries, meets the invariant. -/
def LeavesInv (o : Host.Outcome State Fault Refusal) : Prop :=
  (∀ t, o = .next t → t.Inv) ∧ ∀ e t, o = .fault (.raised e t) → t.Inv

theorem leavesInv_next {t : State} (h : t.Inv) : LeavesInv (.next t) :=
  ⟨fun _ ht => by cases ht; exact h, fun _ _ ht => nomatch ht⟩

/-- The raise of a fault changes RUN only, which the invariant does not look at. -/
theorem leavesInv_raise (e : FaultRecord) {t : State} (h : t.Inv) : LeavesInv (.fault (raise e t)) :=
  ⟨fun _ ht => (nomatch ht), fun _ _ ht => by cases ht; exact h⟩

/-- A fault reported again raises nothing. -/
theorem leavesInv_alreadyFaulted (e : FaultRecord) (t : State) : LeavesInv (.fault (.alreadyFaulted e t)) :=
  ⟨fun _ ht => (nomatch ht), fun _ _ ht => nomatch ht⟩

/-- An instruction completes or stops at a state that keeps the image's invariant; completing changes counters only. -/
theorem exec_leavesInv (i : Instr) {s : State} (h : s.Inv) : LeavesInv (exec i s) := by
  rcases exec_answers i s with ⟨t, n, he, -, -, hk⟩ | ⟨e, t, he, -, hk, -⟩
  · rw [he]; exact leavesInv_next (hk.inv h)
  · rw [he]; exact leavesInv_raise e (hk.inv h)

theorem step_leavesInv {s : State} (h : s.Inv) : LeavesInv (step s) := by
  rcases step_cases s with ⟨-, hs⟩ | ⟨e, -, hs⟩ | ⟨-, -, hs⟩ | ⟨-, ⟨-, hs⟩ | ⟨-, ⟨i, -, hs⟩ | ⟨e, k, -, -, hs, -⟩⟩⟩
  · rw [hs]; exact leavesInv_next h
  · rw [hs]; exact leavesInv_alreadyFaulted e s
  · rw [hs]; exact leavesInv_next h
  · rw [hs]; exact leavesInv_raise _ h
  · rw [hs]; exact exec_leavesInv i h
  · rw [hs]; exact leavesInv_raise e h

end Sys2Proof.Proofs

/-! The statements about memory (20_memory.md). -/
namespace Sys2Proof.Proofs

open Sys2Proof.Machine Sys2Proof.Claims

/-- Settles O1: each thing a step can be leaves the invariant, a completed or stopped instruction by `exec_answers`. -/
theorem everyStepKeepsStateInv : Obligations.EveryStepKeepsStateInv := by
  unfold Obligations.EveryStepKeepsStateInv
  exact fun _ h => step_leavesInv h

/-- Settles O21: by the write's search through the rising addresses of the image. -/
theorem memoryReadAfterWrite : Obligations.MemoryReadAfterWrite := by
  unfold Obligations.MemoryReadAfterWrite
  exact fun _ a b v h => read_write a b v h

/-- Settles O22: by induction on both images, whose lowest cells agree. -/
theorem equalReadsAreEqualMemories : Obligations.EqualReadsAreEqualMemories := by
  unfold Obligations.EqualReadsAreEqualMemories
  exact fun _ _ => eq_of_reads

/-- Settles O23: the port's two cases, below the bound and not. -/
theorem memoryPortChecksTheImageBound : Obligations.MemoryPortChecksTheImageBound := by
  unfold Obligations.MemoryPortChecksTheImageBound
  exact fun _ _ _ => ⟨fun h => ⟨memRead_ok h, memWrite_ok h⟩, fun h => ⟨memRead_out h.not_gt, memWrite_out h.not_gt⟩⟩

/-- Settles O24: both word reads are a pair of reads, whose second address wraps at the width of the first. -/
theorem wordReadsAreLittleEndianAndWrap : Obligations.WordReadsAreLittleEndianAndWrap := by
  unfold Obligations.WordReadsAreLittleEndianAndWrap
  refine fun s => ⟨fun a => ?_, fun p => ?_⟩ <;> dsimp only
  · rw [← addr_succ_toNat a]
    simp only [BitVec.ofNat_toNat, BitVec.setWidth_eq, ← Nat.not_lt]
    exact readPair_littleEndian a (a + 1#16) s
  · rw [← byte_succ_toNat p, ← zext16_toNat p, ← zext16_toNat (p + 1#8)]
    simp only [BitVec.ofNat_toNat, BitVec.setWidth_eq, ← Nat.not_lt]
    exact readPair_littleEndian (zext16 p) (zext16 (p + 1#8)) s

/-- Settles O25: the slots are the page 1 addresses of S and of S + 1. -/
theorem pushAndPullKeepTheStackInPageOne : Obligations.PushAndPullKeepTheStackInPageOne := by
  unfold Obligations.PushAndPullKeepTheStackInPageOne
  intro s v
  dsimp only
  rw [← byte_succ_toNat, ← byte_pred_toNat, ← stackAddr_toNat, ← stackAddr_toNat]
  simp only [BitVec.ofNat_toNat, BitVec.setWidth_eq]
  exact ⟨push_ok, fun h => push_out h.not_gt, pull_ok, fun h => pull_out h.not_gt⟩

end Sys2Proof.Proofs

/-! SUPPORT. The opcode bytes as a partition: the undefined list and the table share the 256 bytes between them
(30_encoding.md R83, R85), so the lookup of an entry finds the only one. -/
namespace Sys2Proof.Proofs

open Sys2Proof.Claims

/-- The bytes 0x00 to 0xFF, in order. -/
def allBytes : List Byte := (List.finRange 256).map BitVec.ofFin

theorem mem_allBytes (b : Byte) : b ∈ allBytes := List.mem_map.mpr ⟨b.toFin, List.mem_finRange _, rfl⟩

theorem nodup_allBytes : allBytes.Nodup := (List.nodup_finRange 256).map fun _ _ h => congrArg BitVec.toFin h

/-- The one computation over all bytes: the two lists together are a rearrangement of the 256. -/
theorem undefined_append_defined_perm : (undefinedOpcodes ++ opcodeTable.map (·.opcode)).Perm allBytes := by
  decide +kernel

theorem nodup_undefined_append_defined : (undefinedOpcodes ++ opcodeTable.map (·.opcode)).Nodup :=
  undefined_append_defined_perm.nodup_iff.mpr nodup_allBytes

theorem nodup_undefinedOpcodes : undefinedOpcodes.Nodup := nodup_undefined_append_defined.of_append_left

theorem nodup_opcodes : (opcodeTable.map (·.opcode)).Nodup := nodup_undefined_append_defined.of_append_right

theorem mem_undefinedOpcodes {op : Byte} : op ∈ undefinedOpcodes ↔ op ∉ opcodeTable.map (·.opcode) := by
  have hor : op ∈ undefinedOpcodes ∨ op ∈ opcodeTable.map (·.opcode) :=
    List.mem_append.mp (undefined_append_defined_perm.mem_iff.mpr (mem_allBytes op))
  exact ⟨fun hu ht => List.disjoint_of_nodup_append nodup_undefined_append_defined hu ht, hor.resolve_right⟩

theorem findRow_eq_none {op : Byte} : findRow op = none ↔ op ∉ opcodeTable.map (·.opcode) := by
  simp [findRow]

theorem findRow_eq_some {op : Byte} {r : OpcodeRow} : findRow op = some r ↔ r ∈ opcodeTable ∧ r.opcode = op := by
  constructor
  · exact fun h => ⟨List.mem_of_find?_eq_some h, by simpa using List.find?_some h⟩
  · rintro ⟨hr, rfl⟩
    cases hq : findRow r.opcode with
    | none => exact absurd (List.mem_map_of_mem hr) (findRow_eq_none.mp hq)
    | some q =>
      have ho : q.opcode = r.opcode := by simpa using List.find?_some hq
      rw [List.inj_on_of_nodup_map nodup_opcodes (List.mem_of_find?_eq_some hq) hr ho]

/-- The table's entries of a mnemonic have exactly the modes that its Encoding line gives it. -/
theorem modes_of_mnemonic_perm (mn : Mnemonic) :
    ((opcodeTable.filter (·.mnemonic = mn)).map (·.mode)).Perm (legalModes mn) := by
  cases mn <;> decide

theorem mem_legalModes {mn : Mnemonic} {m : Mode} :
    m ∈ legalModes mn ↔ ∃ r ∈ opcodeTable, r.mnemonic = mn ∧ r.mode = m := by
  rw [← (modes_of_mnemonic_perm mn).mem_iff]
  simp [and_assoc]

end Sys2Proof.Proofs

/-! SUPPORT. What an entry makes of its operand bytes, and the decoder's answer by entry (30_encoding.md R80 to R84). -/
namespace Sys2Proof.Proofs

open Sys2Proof.Laws

/-- The instruction an entry makes of the operand bytes in memory order; a byte its mode does not have counts as 0. -/
def makeOf (r : OpcodeRow) (xs : List Byte) : Instr := r.make (xs.getD 0 0#8) (xs.getD 1 0#8)

theorem operandBytes_le (m : Mode) : m.operandBytes ≤ 2 := by cases m <;> decide

theorem operand_bytes_length (o : Operand) : o.bytes.length = o.mode.operandBytes := by
  cases o with
  | memory m => cases m <;> rfl
  | _ => rfl

/-- The operand of what an entry makes is as many of the two bytes as the entry's mode has. -/
theorem make_operand_bytes : ∀ r ∈ opcodeTable, ∀ lo hi,
    (r.make lo hi).operand.bytes = [lo, hi].take r.mode.operandBytes := by
  intro r hr lo hi
  simp only [opcodeTable, opcodeRows0, opcodeRows1, opcodeRows2, opcodeRows3, opcodeRows4, opcodeRows5, opcodeRows6,
    opcodeRows7, opcodeRows8, opcodeRows9, opcodeRowsA, opcodeRowsB, opcodeRowsC, opcodeRowsD, opcodeRowsE, opcodeRowsF,
    List.cons_append, List.nil_append, List.mem_cons, List.not_mem_nil, or_false] at hr
  repeat' (rcases hr with rfl | hr)
  all_goals simp [Instr.operand, Operand.bytes, MemOperand.bytes, wordBytes, Mode.operandBytes]

theorem makeOf_operand_bytes {r : OpcodeRow} (hr : r ∈ opcodeTable) {xs : List Byte}
    (hx : xs.length = r.mode.operandBytes) : (makeOf r xs).operand.bytes = xs := by
  have hle : xs.length ≤ 2 := hx ▸ operandBytes_le r.mode
  rw [makeOf, make_operand_bytes r hr, ← hx]
  match xs, hle with
  | [], _ => rfl
  | [_], _ => rfl
  | [_, _], _ => rfl

/-- The entries stand in the order of the instructions' constructors, so each instruction's own is found by position. -/
theorem row_at_ctorIdx (i : Instr) : ∃ r, opcodeTable[i.ctorIdx]? = some r ∧ makeOf r i.operand.bytes = i := by
  cases i
  all_goals
    refine ⟨_, rfl, ?_⟩
    simp [makeOf, Instr.operand, Operand.bytes, MemOperand.bytes, wordBytes]

/-- The entry of an instruction's opcode makes the instruction of its own operand bytes. -/
theorem makeOf_of_findRow {i : Instr} {r : OpcodeRow} (h : findRow i.opcode = some r) :
    makeOf r i.operand.bytes = i := by
  obtain ⟨q, hq, hi⟩ := row_at_ctorIdx i
  have hmem : q ∈ opcodeTable := List.mem_of_getElem? hq
  have ho : i.opcode = q.opcode := by
    calc i.opcode = (makeOf q i.operand.bytes).opcode := by rw [hi]
      _ = q.opcode := make_opcode q hmem _ _
  obtain rfl : q = r := Option.some.inj ((findRow_eq_some.mpr ⟨hmem, ho.symm⟩).symm.trans h)
  exact hi

/-- The decoder answers an instruction iff the first byte has an entry and the entry's operand bytes follow; the
instruction is what the entry makes of them. -/
theorem decode_cons_eq_ok {op : Byte} {bs rest : List Byte} {i : Instr} :
    decode (op :: bs) = .ok (i, rest) ↔ ∃ r xs, findRow op = some r ∧ xs.length = r.mode.operandBytes ∧
      bs = xs ++ rest ∧ i = makeOf r xs := by
  constructor
  · intro h
    simp only [decode] at h
    split at h
    · cases h
    next r hr =>
      split at h <;> cases h
      next hm => exact ⟨r, [], hr, hm.symm, rfl, rfl⟩
      next lo hm => exact ⟨r, [lo], hr, hm.symm, rfl, rfl⟩
      next lo hi hm => exact ⟨r, [lo, hi], hr, hm.symm, rfl, rfl⟩
  · rintro ⟨r, xs, hr, hx, rfl, rfl⟩
    have hle : xs.length ≤ 2 := hx ▸ operandBytes_le r.mode
    simp only [decode, hr, ← hx]
    match xs, hle with
    | [], _ => rfl
    | [_], _ => rfl
    | [_, _], _ => rfl

theorem decode_encode (i : Instr) (rest : List Byte) : decode (encode i ++ rest) = .ok (i, rest) := by
  obtain ⟨r, hr, -, -, hm⟩ := row_of_instr i
  refine decode_cons_eq_ok.mpr ⟨r, i.operand.bytes, hr, ?_, rfl, (makeOf_of_findRow hr).symm⟩
  rw [operand_bytes_length, hm]

theorem eq_encode_of_decode {bs rest : List Byte} {i : Instr} (h : decode bs = .ok (i, rest)) :
    bs = encode i ++ rest := by
  cases bs with
  | nil => cases h
  | cons op bs =>
    obtain ⟨r, xs, hr, hx, rfl, rfl⟩ := decode_cons_eq_ok.mp h
    obtain ⟨hmem, rfl⟩ := findRow_eq_some.mp hr
    rw [encode, decode_opcode h, makeOf_operand_bytes hmem hx]
    rfl

end Sys2Proof.Proofs

/-! The statements about the encoding (30_encoding.md). -/
namespace Sys2Proof.Proofs

/-- Settles O4: the entry of the opcode makes the instruction of its own operand bytes. -/
theorem decodeOfEncodeIsTheInstruction : Obligations.DecodeOfEncodeIsTheInstruction := by
  unfold Obligations.DecodeOfEncodeIsTheInstruction
  exact fun i rest _ => decode_encode i rest

/-- Settles O5: what an entry makes has the entry's opcode and the operand bytes it was made of. -/
theorem encodeOfDecodeIsTheBytes : Obligations.EncodeOfDecodeIsTheBytes := by
  unfold Obligations.EncodeOfDecodeIsTheBytes
  exact fun _ _ _ => eq_encode_of_decode

/-- Settles O6: the list and the table's opcodes are a partition of the 256 bytes. -/
theorem onlyTheListedBytesAreUndefined : Obligations.OnlyTheListedBytesAreUndefined := by
  unfold Obligations.OnlyTheListedBytesAreUndefined
  exact ⟨rfl, nodup_undefinedOpcodes, fun _ => mem_undefinedOpcodes.trans findRow_eq_none.symm⟩

/-- Settles O8: the opcodes are part of a partition, and a mode is legal iff the table has its entry. -/
theorem opcodeTableIsUnambiguousAndLegal : Obligations.OpcodeTableIsUnambiguousAndLegal := by
  unfold Obligations.OpcodeTableIsUnambiguousAndLegal
  refine ⟨rfl, nodup_opcodes, fun r hr => mem_legalModes.mpr ⟨r, hr, rfl, rfl⟩, fun mn => ?_,
    fun _ _ => mem_legalModes.mp⟩
  cases mn <;> exact List.cons_ne_nil _ _

/-- Settles O9: the decoder computes each answer. -/
theorem specWordsDecodeAsWritten : Obligations.SpecWordsDecodeAsWritten := by
  unfold Obligations.SpecWordsDecodeAsWritten
  exact ⟨rfl, rfl, rfl, rfl, rfl, rfl, rfl, rfl, rfl, rfl, rfl, rfl⟩

end Sys2Proof.Proofs

/-! SUPPORT. What a completed instruction counts, and what a step of a Running machine can be (40_sequencer.md R100 to
R102, R107). -/
namespace Sys2Proof.Proofs

open Sys2Proof.Machine Sys2Proof.Claims Sys2Proof.Laws

variable {i : Instr} {s t : State}

/-- The second state is the first with one more instruction counted, RUN and the host's parameters kept. -/
structure CountsOnce (s t : State) : Prop where
  steps    : t.steps = s.steps + 1
  cyc_low  : s.cyc + 2 ≤ t.cyc
  cyc_high : t.cyc ≤ s.cyc + 7
  run      : t.run = s.run
  memSize  : t.memSize = s.memSize
  budget   : t.budget = s.budget
  haltReq  : t.haltReq = s.haltReq

/-- The effect keeps the counters, so completing it counts its own cost and one step. -/
theorem complete_countsOnce (h : Keeps s t) {n : Nat} (hlow : 2 ≤ n) (hhigh : n ≤ 7) :
    CountsOnce s (t.complete n) := by
  refine ⟨?_, ?_, ?_, h.run, h.memSize, h.budget, h.haltReq⟩
  · rw [State.complete_steps, h.steps]
  · rw [State.complete_cyc, h.cyc]; exact Nat.add_le_add_left hlow _
  · rw [State.complete_cyc, h.cyc]; exact Nat.add_le_add_left hhigh _

/-- An instruction completes and is counted once, or raises a fault. -/
theorem exec_countsOnce_or_raises (i : Instr) (s : State) :
    (∃ t, exec i s = .next t ∧ CountsOnce s t) ∨ ∃ e t, exec i s = .fault (raise e t) := by
  rcases exec_answers i s with ⟨t, n, he, hlow, hhigh, hk⟩ | ⟨e, t, he, -⟩
  · exact .inl ⟨_, he, complete_countsOnce hk hlow hhigh⟩
  · exact .inr ⟨e, t, he⟩

theorem exec_countsOnce (h : exec i s = .next t) : CountsOnce s t := by
  rcases exec_countsOnce_or_raises i s with ⟨u, he, hu⟩ | ⟨e, u, he⟩ <;> rw [h] at he <;> cases he
  exact hu

theorem step_of_haltCondition (hr : s.run = .running) (hh : haltCondition s = true) :
    step s = .next (s.setRun .halted) := by
  unfold step
  rw [hr]
  exact if_pos hh

/-- A machine ready to execute completes an instruction, or raises a fault in the fetch or in the instruction. -/
theorem step_countsOnce_or_raises (h : Ready s) :
    (∃ t, step s = .next t ∧ CountsOnce s t) ∨ ∃ e t, step s = .fault (raise e t) := by
  rw [step_ready h]
  rcases fetch_cases s (ready_pc h) with ⟨-, hf⟩ | ⟨-, ⟨i, -, hf⟩ | ⟨e, k, -, -, hf, -⟩⟩ <;> rw [hf]
  · exact .inr ⟨_, _, rfl⟩
  · exact exec_countsOnce_or_raises i s
  · exact .inr ⟨_, _, rfl⟩

end Sys2Proof.Proofs

/-! SUPPORT. The fetch of an instruction whose bytes all stand in the image (40_sequencer.md R103, R104;
41_address_resolver.md R121). -/
namespace Sys2Proof.Proofs

open Sys2Proof.Machine Sys2Proof.Claims Sys2Proof.Laws

/-- The operand bytes of a decoded instruction are the first of those after its opcode. -/
theorem take_operandBytes_of_decode {op : Byte} {bs rest : List Byte} {i : Instr}
    (h : decode (op :: bs) = .ok (i, rest)) : bs.take i.operand.mode.operandBytes = i.operand.bytes := by
  obtain ⟨-, rfl⟩ := List.cons.inj (eq_encode_of_decode h)
  exact List.take_left' (operand_bytes_length _)

/-- The fetch reads as many operand bytes as the entry's mode has, which are the bytes the decoder used. -/
theorem fetch_of_decode {s : State} {i : Instr} {rest : List Byte}
    (hd : decode [Memory.read s.mem s.pc.toNat, Memory.read s.mem (s.pc + 1#16).toNat,
      Memory.read s.mem (s.pc + 2#16).toNat] = .ok (i, rest))
    (hb : ∀ k < i.length, Backed s (s.pc + BitVec.ofNat 16 k)) : fetch s = .ok i := by
  have hop : i.opcode = Memory.read s.mem s.pc.toNat := decode_opcode hd
  obtain ⟨r, hr, -, -, hm⟩ := row_of_instr i
  have hpc : s.pc.toNat < s.memSize := by
    simpa [Backed] using hb 0 (by rw [Instr.length]; omega)
  have hoperand : fetchOperand r.mode (s.advance 1) = .ok i.operand.bytes := by
    rw [fetchOperand_ok, hm, ← take_operandBytes_of_decode hd]
    · simp [BitVec.add_assoc]
    · intro k hk
      have := hb (1 + k) (by rw [Instr.length, ← hm]; omega)
      rwa [BitVec.ofNat_add, ← BitVec.add_assoc] at this
  have hdec : decode (i.opcode :: i.operand.bytes) = .ok (i, []) := by
    simpa [encode] using decode_encode i []
  rw [fetch, fetchByte_ok hpc, ← hop]
  simp only [hr, hoperand, hdec]

end Sys2Proof.Proofs

/-! SUPPORT. The run loop under a budget (40_sequencer.md R102, R109, R110): each completed step uses one unit of what
the budget leaves, and a spent budget halts. -/
namespace Sys2Proof.Proofs

open Sys2Proof.Machine Sys2Proof.Claims Sys2Proof.Laws

variable {n : Nat} {s : State}

/-- The outcome is a halted machine that has counted at most `n` steps, or a raised fault. -/
def EndsWithin (n : Nat) (o : Host.Outcome State Fault Refusal) : Prop :=
  (∃ t, o = .next t ∧ t.run = .halted ∧ t.steps ≤ n) ∨ ∃ e t, o = .fault (.raised e t) ∧ t.run = .faulted e

theorem runLoop_of_halted (k : Nat) (h : s.run = .halted) : runLoop k s = .next s := by
  cases k with
  | zero => rfl
  | succ k => rw [runLoop, h]

theorem runLoop_of_next {t : State} (k : Nat) (hr : s.run = .running) (hs : step s = .next t) :
    runLoop (k + 1) s = runLoop k t := by
  simp only [runLoop, hr, hs]

theorem runLoop_of_fault {f : Fault} (k : Nat) (hr : s.run = .running) (hs : step s = .fault f) :
    runLoop (k + 1) s = .fault f := by
  simp only [runLoop, hr, hs]

theorem runLoop_of_haltCondition (k : Nat) (hr : s.run = .running) (hh : haltCondition s = true) :
    runLoop (k + 1) s = .next (s.setRun .halted) :=
  (runLoop_of_next k hr (step_of_haltCondition hr hh)).trans (runLoop_of_halted k rfl)

theorem haltCondition_of_spent (hb : s.budget = some n) (h : n ≤ s.steps) : haltCondition s = true :=
  (haltCondition_iff s).mpr (.inr (.inl ⟨n, hb, h⟩))

/-- With `k` instructions left of the budget, `k + 1` steps end the run: the last one halts. -/
theorem runLoop_endsWithin (k : Nat) {s : State} (hr : s.run = .running) (hb : s.budget = some n)
    (hk : s.steps + k = n) : EndsWithin n (runLoop (k + 1) s) := by
  induction k generalizing s with
  | zero =>
    rw [runLoop_of_haltCondition 0 hr (haltCondition_of_spent hb (by omega))]
    exact .inl ⟨_, rfl, rfl, by rw [State.setRun_steps]; omega⟩
  | succ k ih =>
    by_cases hh : haltCondition s = true
    · rw [runLoop_of_haltCondition _ hr hh]
      exact .inl ⟨_, rfl, rfl, by rw [State.setRun_steps]; omega⟩
    · rcases step_countsOnce_or_raises ⟨hr, Bool.eq_false_of_not_eq_true hh⟩ with ⟨t, hs, ht⟩ | ⟨e, t, hs⟩
      · rw [runLoop_of_next _ hr hs]
        exact ih (ht.run.trans hr) (ht.budget.trans hb) (by rw [ht.steps]; omega)
      · rw [runLoop_of_fault _ hr hs]
        exact .inr ⟨e, _, rfl, rfl⟩

/-- The state a run under budget `n` starts from. -/
def runStart (n : Nat) (s : State) : State := { s with budget := some n, steps := 0, run := .running }

theorem runAtMost_of_faulted {e : FaultRecord} (n : Nat) (h : s.run = .faulted e) :
    runAtMost n s = .fault (.alreadyFaulted e s) := by
  simp only [runAtMost, enterRun, h]

theorem runAtMost_of_not_faulted (n : Nat) (h : ∀ e, s.run ≠ .faulted e) :
    runAtMost n s = runLoop (n + 1) (runStart n s) := by
  cases hr : s.run with
  | faulted e => exact absurd hr (h e)
  | running => simp only [runAtMost, enterRun, hr, runStart]
  | halted => simp only [runAtMost, enterRun, hr, runStart]

theorem runAtMost_endsWithin (n : Nat) (h : ∀ e, s.run ≠ .faulted e) : EndsWithin n (runAtMost n s) := by
  rw [runAtMost_of_not_faulted n h]
  exact runLoop_endsWithin n rfl rfl (Nat.zero_add n)

theorem runAtMost_zero (h : ∀ e, s.run ≠ .faulted e) :
    runAtMost 0 s = .next { s with run := .halted, steps := 0, budget := some 0 } := by
  rw [runAtMost_of_not_faulted 0 h]
  exact runLoop_of_haltCondition 0 rfl (haltCondition_of_spent rfl (Nat.le_refl 0))

end Sys2Proof.Proofs

/-! The statements about the sequencer (40_sequencer.md). -/
namespace Sys2Proof.Proofs

open Sys2Proof.Machine Sys2Proof.Claims

/-- Settles O17: the cost of a completed instruction is the table's, and its effect keeps the counters. -/
theorem completedInstructionCountsOnce : Obligations.CompletedInstructionCountsOnce := by
  unfold Obligations.CompletedInstructionCountsOnce
  intro i s t h
  obtain ⟨hsteps, hlow, hhigh, hrun, hsize, hbudget, hhalt⟩ := exec_countsOnce h
  exact ⟨hsteps, hlow, hhigh, hrun, hsize, hbudget, hhalt⟩

/-- Settles O60: by induction on what the budget leaves. -/
theorem runAtMostEndsWithinItsBudget : Obligations.RunAtMostEndsWithinItsBudget := by
  unfold Obligations.RunAtMostEndsWithinItsBudget
  exact fun n s => ⟨fun _ => runAtMost_of_faulted n, fun h => ⟨runAtMost_endsWithin n h, runAtMost_zero h⟩⟩

/-- Settles O10: the fetch of the decoded instruction answers it. -/
theorem stepRunsTheDecodedInstruction : Obligations.StepRunsTheDecodedInstruction := by
  unfold Obligations.StepRunsTheDecodedInstruction
  intro s i rest hready _ hd hb
  rw [Laws.step_ready hready, fetch_of_decode hd hb]

/-- Settles O12: `haltCondition` is the three conditions; without it the machine is ready to execute. -/
theorem haltConditionHaltsBeforeTheFetch : Obligations.HaltConditionHaltsBeforeTheFetch := by
  unfold Obligations.HaltConditionHaltsBeforeTheFetch
  intro s hr
  rw [← Laws.haltCondition_iff]
  refine ⟨step_of_haltCondition hr, fun hh t hs => ?_⟩
  rcases step_countsOnce_or_raises ⟨hr, Bool.eq_false_of_not_eq_true hh⟩ with ⟨u, hu, hc⟩ | ⟨e, u, hu⟩ <;>
    rw [hs] at hu <;> cases hu
  exact ⟨hc.run.trans hr, hc.steps⟩

end Sys2Proof.Proofs

/-! SUPPORT. The fetch of an instruction with an operand byte outside the image (41_address_resolver.md R121, R124). -/
namespace Sys2Proof.Proofs

open Sys2Proof.Machine Sys2Proof.Claims Sys2Proof.Laws

variable {m : Mode} {s : State}

/-- The byte of an immediate operand is read with PC already past it. -/
theorem fetchOperand_immediate_out (h : ¬ Backed s s.pc) :
    fetchOperand .immediate s = .error (raise (.outOfRange s.pc .read) (s.advance 1)) := by
  rw [fetchOperand, if_pos rfl, memRead_out h]

/-- In every other mode with an operand, a first byte outside the image is read with PC at it. -/
theorem fetchOperand_first_out (hm : m ≠ .immediate) (hn : 1 ≤ m.operandBytes) (h : ¬ Backed s s.pc) :
    fetchOperand m s = .error (raise (.outOfRange s.pc .read) s) := by
  rw [fetchOperand, if_neg hm]
  split
  next h0 => omega
  next => rw [fetchByte_out h]
  next => rw [fetchByte_out h]

/-- A second byte outside the image is read with PC past the first and at the second. -/
theorem fetchOperand_second_out (hn : m.operandBytes = 2) (h0 : Backed s s.pc) (h1 : ¬ Backed s (s.pc + 1#16)) :
    fetchOperand m s = .error (raise (.outOfRange (s.pc + 1#16) .read) (s.advance 1)) := by
  have hm : m ≠ .immediate := by rintro rfl; cases hn
  have hsecond : fetchByte (s.advance 1) = .error (raise (.outOfRange (s.pc + 1#16) .read) (s.advance 1)) :=
    fetchByte_out h1
  rw [fetchOperand, if_neg hm, hn]
  simp only [fetchByte_ok h0, hsecond]

/-- A ready machine stops with the fault that the operand bytes of the instruction at PC raise. -/
theorem step_of_fetchOperand_error {i : Instr} {f : Fault} (hready : Ready s)
    (hop : i.opcode = Memory.read s.mem s.pc.toNat) (h : fetchOperand i.operand.mode (s.advance 1) = .error f) :
    step s = .fault f := by
  obtain ⟨r, hr, -, -, hm⟩ := row_of_instr i
  rw [step_ready hready, fetch, fetchByte_ok (ready_pc hready), ← hop]
  simp only [hr, hm, h]

end Sys2Proof.Proofs

/-! SUPPORT. The resolver's addresses and its page-crossed bit as numbers (41_address_resolver.md R125 to R133,
R136). -/
namespace Sys2Proof.Proofs

open Sys2Proof.Machine Sys2Proof.Claims

theorem zext16_eq_ofNat (b : Byte) : zext16 b = BitVec.ofNat 16 b.toNat := (BitVec.ofNat_toNat 16 b).symm

/-- An indexed zero-page address wraps inside the zero page. -/
theorem zext16_add (b x : Byte) : zext16 (b + x) = BitVec.ofNat 16 ((b.toNat + x.toNat) % 256) := by
  rw [zext16_eq_ofNat, BitVec.toNat_add]

/-- An indexed address wraps at 0x10000 only. -/
theorem add_zext16 (w : Addr) (x : Byte) : w + zext16 x = BitVec.ofNat 16 (w.toNat + x.toNat) := by
  rw [BitVec.ofNat_add, ← zext16_eq_ofNat, BitVec.ofNat_toNat, BitVec.setWidth_eq]

theorem and_pageMask_toNat (w : Addr) : (w &&& 0xFF00#16).toNat = w.toNat / 256 * 256 := by
  have := w.isLt
  have hmask : 0xFF00#16 = BitVec.allOnes 16 <<< 8 := rfl
  rw [hmask, ← BitVec.shiftLeft_ushiftRight, BitVec.toNat_shiftLeft, BitVec.toNat_ushiftRight,
    Nat.shiftRight_eq_div_pow, Nat.shiftLeft_eq]
  omega

/-- Two addresses lie in different pages exactly if their high bytes differ. -/
theorem crosses_eq_decide (u v : Addr) : crosses u v = decide (u.toNat / 256 ≠ v.toNat / 256) := by
  rw [crosses, bne, beq_eq_decide, ← decide_not, decide_eq_decide, ← BitVec.toNat_inj, and_pageMask_toNat,
    and_pageMask_toNat]
  omega

theorem crosses_ofNat (w : Addr) (n : Nat) :
    crosses w (BitVec.ofNat 16 n) = decide (w.toNat / 256 ≠ n % 65536 / 256) := by
  rw [crosses_eq_decide, BitVec.toNat_ofNat]

theorem word16_eq_ofNat (hi lo : Byte) : word16 hi lo = BitVec.ofNat 16 (lo.toNat + 256 * hi.toNat) := by
  rw [Nat.add_comm, ← word16_toNat, BitVec.ofNat_toNat, BitVec.setWidth_eq]

/-- A zero-page address is backed by a conforming image. -/
theorem backed_zext16 {s : State} (h : s.Conforming) (p : Byte) : Backed s (zext16 p) :=
  lt_of_lt_of_le (zext16 p).isLt h

/-- Under a conforming image a pointer's two bytes are read, the second one wrapping inside the zero page. -/
theorem zpRead16_of_conforming {s : State} (h : s.Conforming) (p : Byte) :
    zpRead16 p s = .ok (word16 (Memory.read s.mem ((p.toNat + 1) % 256)) (Memory.read s.mem p.toNat)) := by
  rw [zpRead16, readPair, memRead_ok (backed_zext16 h p), memRead_ok (backed_zext16 h (p + 1#8)), zext16_toNat,
    zext16_toNat, byte_succ_toNat]

end Sys2Proof.Proofs

/-! The statements about the addressing-mode resolver (41_address_resolver.md). -/
namespace Sys2Proof.Proofs

open Sys2Proof.Machine

/-- Settles O11: the fault of the operand bytes is the step's, PC one further than at the opcode. -/
theorem missingOperandByteStopsTheStep : Obligations.MissingOperandByteStopsTheStep := by
  unfold Obligations.MissingOperandByteStopsTheStep
  intro s i hready hop
  have hsucc : s.pc + 1#16 + 1#16 = s.pc + 2#16 := BitVec.add_assoc _ _ _
  refine ⟨fun hm h1 => ?_, fun hm hlen h1 => ?_, fun hlen h1 h2 => ?_⟩
  · rw [← hsucc]
    exact step_of_fetchOperand_error hready hop (hm ▸ fetchOperand_immediate_out (s := s.advance 1) h1)
  · have hn : 1 ≤ i.operand.mode.operandBytes := by rw [Instr.length] at hlen; omega
    exact step_of_fetchOperand_error hready hop (fetchOperand_first_out hm hn h1)
  · have hn : i.operand.mode.operandBytes = 2 := by rw [Instr.length] at hlen; omega
    rw [← hsucc] at h2 ⊢
    exact step_of_fetchOperand_error hready hop (fetchOperand_second_out (s := s.advance 1) hn h1 h2)

/-- Settles O26: each mode's sum wraps at the width it is computed in. -/
theorem directModesComputeTheirAddress : Obligations.DirectModesComputeTheirAddress := by
  unfold Obligations.DirectModesComputeTheirAddress
  intro s b w
  refine ⟨?_, ?_, ?_, rfl, ?_, ?_⟩
  · rw [resolve, zext16_eq_ofNat]
  · rw [resolve, zext16_add]
  · rw [resolve, zext16_add]
  · rw [resolve, add_zext16, crosses_ofNat]
  · rw [resolve, add_zext16, crosses_ofNat]

/-- Settles O27: both pointers are read inside the zero page. -/
theorem pointerModesReadTheirPointerInTheZeroPage : Obligations.PointerModesReadTheirPointerInTheZeroPage := by
  unfold Obligations.PointerModesReadTheirPointerInTheZeroPage
  intro s b hs
  dsimp only
  constructor
  · simp only [resolve, zpRead16_of_conforming hs, word16_eq_ofNat, BitVec.toNat_add, Nat.mod_add_mod]
  · simp only [resolve, zpRead16_of_conforming hs, add_zext16, crosses_ofNat, word16_toNat,
      Nat.mod_eq_of_lt b.isLt, Nat.add_comm]

end Sys2Proof.Proofs

/-! SUPPORT. The encodings of a mnemonic as the table lists them, in the rows that the claims quote: their opcodes and
modes are those of its instructions, their costs those of its completed steps (30_encoding.md R83, 40_sequencer.md R101,
R108). -/
namespace Sys2Proof.Proofs

open Sys2Proof.Machine Sys2Proof.Claims Sys2Proof.Laws

variable {mn : Mnemonic} {rows : List Row}

/-- An entry of the table as a claim quotes it. -/
def quoted (q : OpcodeRow) : Row := ⟨q.opcode, q.mode, q.cycles, q.extra = .pageCross⟩

/-- The table's entries of a mnemonic, as a claim quotes them. -/
def quotedRows (mn : Mnemonic) : List Row := (opcodeTable.filter (·.mnemonic = mn)).map quoted

theorem mem_quotedRows {r : Row} : r ∈ quotedRows mn ↔ ∃ q ∈ opcodeTable, q.mnemonic = mn ∧ quoted q = r := by
  simp [quotedRows, and_assoc]

/-- The only entry with an instruction's opcode has the instruction's mnemonic and mode. -/
theorem entry_of_opcode {q : OpcodeRow} {i : Instr} (hq : q ∈ opcodeTable) (ho : q.opcode = i.opcode) :
    q.mnemonic = i.mnemonic ∧ q.mode = i.operand.mode := by
  obtain ⟨r, hr, hmn, -, hmode⟩ := row_of_instr i
  obtain rfl : q = r := Option.some.inj ((findRow_eq_some.mpr ⟨hq, ho⟩).symm.trans hr)
  exact ⟨hmn, hmode⟩

/-- Rows that rearrange the table's entries of a mnemonic are exactly its encodings. -/
theorem rows_of_perm (h : rows.Perm (quotedRows mn)) : Rows mn rows := by
  intro op mode
  constructor
  · rintro ⟨i, rfl, rfl, rfl⟩
    obtain ⟨q, hq, hmn, hop, hmode⟩ := row_mem_of_instr i
    exact ⟨quoted q, h.mem_iff.mpr (mem_quotedRows.mpr ⟨q, hq, hmn, rfl⟩), hop, hmode⟩
  · rintro ⟨r, hr, rfl, rfl⟩
    obtain ⟨q, hq, rfl, rfl⟩ := mem_quotedRows.mp (h.mem_iff.mp hr)
    have ho : (q.make 0 0).opcode = q.opcode := make_opcode q hq 0 0
    obtain ⟨hmn, hmode⟩ := entry_of_opcode hq ho.symm
    exact ⟨q.make 0 0, hmn.symm, ho, hmode.symm⟩

/-- The row of an instruction's opcode gives the instruction's mnemonic and the cost of its step. -/
theorem mnemonic_and_cost_of_row (h : rows.Perm (quotedRows mn)) {r : Row} (hr : r ∈ rows) {i : Instr}
    (hi : i.opcode = r.op) : i.mnemonic = mn ∧ ∀ crossed, cost i.opcode crossed 0 = r.cost crossed := by
  obtain ⟨q, hq, rfl, rfl⟩ := mem_quotedRows.mp (h.mem_iff.mp hr)
  have hfind : findRow i.opcode = some q := findRow_eq_some.mpr ⟨hq, hi.symm⟩
  obtain ⟨hmn, -⟩ := entry_of_opcode hq hi.symm
  refine ⟨hmn.symm, fun crossed => ?_⟩
  simp only [cost, baseCycles, pagePenalty, hfind, Row.cost, quoted]
  cases crossed <;> by_cases hx : q.extra = .pageCross <;> simp [hx]

end Sys2Proof.Proofs

/-! SUPPORT. The execution of the instructions that read one operand or store one register, and the claims about a
mnemonic that follow from its effect and its entries (41_address_resolver.md R124, R135; 20_memory.md R67). -/
namespace Sys2Proof.Proofs

open Sys2Proof.Machine Sys2Proof.Claims Sys2Proof.Laws

variable {mn : Mnemonic} {rows : List Row} {i : Instr} {s : State} {m : MemOperand} {ea : Addr} {crossed : Bool}
  {e : FaultRecord}

/-! ## The flags of a result -/

/-- Bit 7 of a byte is set from 0x80 up. -/
theorem getLsbD_seven (v : Byte) : v.getLsbD 7 = decide (128 ≤ v.toNat) := BitVec.msb_eq_decide v

theorem nz_setNZ (v p : Byte) : NZ v (setNZ v p) := by
  constructor
  · rw [flag_setNZ, if_neg (by decide), if_pos rfl, getLsbD_seven]
  · rw [flag_setNZ, if_pos rfl, beq_eq_decide, decide_eq_decide, ← BitVec.toNat_inj]
    rfl

theorem onlyFlags_setNZ (v p : Byte) : OnlyFlags [.n, .z] p (setNZ v p) := by
  intro f hf
  obtain ⟨hn, hz⟩ : f ≠ .n ∧ f ≠ .z := by simpa using hf
  rw [flag_setNZ, if_neg hz, if_neg hn]

/-! ## Instructions that read one operand -/

/-- No reading instruction has an accumulator form. -/
theorem operand_ne_accumulator {g : Byte → State → State} (hg : readEffect i.mnemonic = some g) :
    i.operand ≠ .accumulator := by
  intro ho
  cases i <;> cases ho
  case aslAcc | lsrAcc | rolAcc | rorAcc => cases hg

theorem exec_of_operand_ok {g : Byte → State → State} (hg : readEffect i.mnemonic = some g) {v : Byte}
    (h : readOperand i.operand s = some (.ok (v, crossed))) :
    exec i s = .next ((g v (s.advance i.length)).complete (cost i.opcode crossed 0)) := by
  obtain ⟨immediate, memory, -⟩ := exec_shapes i s
  cases ho : i.operand with
  | immediate u =>
    rw [ho] at h
    cases h
    rw [immediate g v hg ho, Instr.length, ho]
    rfl
  | memory m =>
    rw [ho] at h
    rw [memory g m hg ho, readMemory_next h, memLength_of_operand ho]
  | accumulator => exact absurd ho (operand_ne_accumulator hg)
  | implied | indirect _ | relative _ => rw [ho] at h; cases h

theorem stops_of_operand_error {g : Byte → State → State} (hg : readEffect i.mnemonic = some g)
    (h : readOperand i.operand s = some (.error e)) : Stops i e s := by
  obtain ⟨-, memory, -⟩ := exec_shapes i s
  cases ho : i.operand with
  | memory m =>
    rw [ho] at h
    rw [Stops, memory g m hg ho, readMemory_fault h, memLength_of_operand ho]
    rfl
  | immediate _ | accumulator | implied | indirect _ | relative _ => rw [ho] at h; cases h

/-- A mnemonic's read claim from its effect on a state whose instruction is passed, before the cost is counted. -/
theorem readClaim_of_effect {g : Byte → State → State} (hg : readEffect mn = some g)
    (hrows : rows.Perm (quotedRows mn)) {effect : Byte → State → State → Prop}
    (heffect : ∀ v u n, effect v (u.complete n) ((g v u).complete n)) : ReadClaim mn rows effect := by
  refine ⟨rows_of_perm hrows, fun r hr i s v crossed hi h => ?_, fun i s e hi h => ?_⟩
  · obtain ⟨rfl, hcost⟩ := mnemonic_and_cost_of_row hrows hr hi
    refine ⟨_, exec_of_operand_ok hg h, ?_⟩
    rw [hcost]
    exact heffect v (s.advance i.length) _
  · subst hi
    exact stops_of_operand_error hg h

/-! ## Instructions that store one register -/

/-- One byte stored in a canonical image. -/
theorem stores_write (m : Memory) (a : Nat) (v : Byte) : Stores m (Memory.write m a v) [(a, v)] := by
  refine fun h => ⟨Memory.wf_write a v h, fun b => ?_⟩
  rw [read_write a b v h]
  by_cases hb : b = a
  · rw [if_pos hb, hb, List.lookup_cons_self, Option.getD_some]
  · rw [if_neg hb, List.lookup, beq_false_of_ne hb, List.lookup, Option.getD_none]

section
variable {reg : State → Byte} (hreg : storeSource i.mnemonic = some reg) (ho : i.operand = .memory m)
include hreg ho

theorem exec_store : exec i s = storeMemory i.opcode m (reg s) s := by
  obtain ⟨-, -, store, -⟩ := exec_shapes i s
  exact store reg m hreg ho

theorem exec_store_backed (h : resolve m s = .ok (ea, crossed)) (hb : Backed s ea) :
    exec i s = .next { passed i (cost i.opcode crossed 0) s with mem := Memory.write s.mem ea.toNat (reg s) } := by
  rw [exec_store hreg ho, storeMemory_next h hb, memLength_of_operand ho]
  rfl

theorem stops_of_store_unbacked (h : resolve m s = .ok (ea, crossed)) (hb : ¬ Backed s ea) :
    Stops i (.outOfRange ea .write) s := by
  rw [Stops, exec_store hreg ho, storeMemory_fault h hb, memLength_of_operand ho]
  rfl

theorem stops_of_store_unresolved (h : resolve m s = .error e) : Stops i e s := by
  rw [Stops, exec_store hreg ho, storeMemory_unresolved h, memLength_of_operand ho]
  rfl

end

/-- A mnemonic's store claim, when none of its entries has the page-crossing modifier. -/
theorem storeClaim_of_source {reg : State → Byte} (hreg : storeSource mn = some reg)
    (hrows : rows.Perm (quotedRows mn)) (hfixed : ∀ r ∈ rows, r.page = false) : StoreClaim mn rows reg := by
  refine ⟨rows_of_perm hrows, fun r hr i s m ea crossed hi ho h hb => ⟨?_, stores_write _ _ _⟩,
    fun i s m ea crossed hi ho h hb => ?_⟩
  · obtain ⟨rfl, hcost⟩ := mnemonic_and_cost_of_row hrows hr hi
    have hcycles : cost i.opcode crossed 0 = r.cycles := by simp [hcost, Row.cost, hfixed r hr]
    rw [exec_store_backed hreg ho h hb, hcycles]
  · subst hi
    exact stops_of_store_unbacked hreg ho h hb

end Sys2Proof.Proofs

/-! The statements about the loads and stores (42_load_store.md). -/
namespace Sys2Proof.Proofs

open Sys2Proof.Machine

/-- Settles O30: each load writes its register and then N and Z from the byte, and its rows are the table's. -/
theorem loadsReadTheirOperand : Obligations.LoadsReadTheirOperand := by
  unfold Obligations.LoadsReadTheirOperand
  refine ⟨readClaim_of_effect (g := loadA) rfl (by decide) fun v u n => ?_,
    readClaim_of_effect (g := loadX) rfl (by decide) fun v u n => ?_,
    readClaim_of_effect (g := loadY) rfl (by decide) fun v u n => ?_⟩
  all_goals exact ⟨rfl, nz_setNZ v u.p, onlyFlags_setNZ v u.p⟩

/-- Settles O31: the three stores are one shape over different registers, with no penalty in any row. -/
theorem storesWriteTheirRegister : Obligations.StoresWriteTheirRegister := by
  unfold Obligations.StoresWriteTheirRegister
  refine ⟨storeClaim_of_source rfl (by decide) (by decide), storeClaim_of_source rfl (by decide) (by decide),
    storeClaim_of_source rfl (by decide) (by decide), fun i s m e hi ho h => ?_⟩
  exact stops_of_store_unresolved (reg := State.a) (by rw [hi]; rfl) ho h

/-- Settles O28: N and Z are read back as bit 7 and as the zero test, every other flag as it was. -/
theorem setNZWritesOnlyNAndZ : Obligations.SetNZWritesOnlyNAndZ := by
  unfold Obligations.SetNZWritesOnlyNAndZ
  exact fun v p => ⟨nz_setNZ v p, onlyFlags_setNZ v p⟩

end Sys2Proof.Proofs

/-! SUPPORT. The adder as arithmetic, the operand SBC gives it, and the flags of its answer (43_arith_logic.md R170 to
R172). -/
namespace Sys2Proof.Proofs

open Sys2Proof.Machine Sys2Proof.Claims

/-! ## The adder's answer (R170) -/

/-- A byte masked to bit 7 is nonzero exactly when bit 7 is set. -/
theorem and_sign_ne_zero (x : Byte) : (x &&& 0x80#8 != 0#8) = x.msb := by
  revert x
  decide

theorem addCore_sum (a b : Byte) (cin : Bool) :
    (addCore a b cin).1 = BitVec.ofNat 8 (a.toNat + b.toNat + cin.toNat) := rfl

theorem addCore_carry (a b : Byte) (cin : Bool) :
    (addCore a b cin).2.1 = decide (256 ≤ a.toNat + b.toNat + cin.toNat) := by
  have ha := a.isLt
  have hb := b.isLt
  have hc := cin.toNat_le
  change Nat.testBit _ 8 = _
  rw [Nat.testBit_eq_decide_div_mod_eq, decide_eq_decide]
  omega

/-- V by the signs: those of the operands agree and the result's differs. -/
theorem addCore_overflow_signs (a b : Byte) (cin : Bool) :
    (addCore a b cin).2.2 = true ↔ a.msb = b.msb ∧ (addCore a b cin).1.msb ≠ a.msb := by
  change (((a ^^^ b) ^^^ 0x80#8) &&& (a ^^^ (addCore a b cin).1) &&& 0x80#8 != 0#8) = true ↔ _
  rw [and_sign_ne_zero, BitVec.msb_and, BitVec.msb_xor, BitVec.msb_xor, BitVec.msb_xor,
    show (0x80#8).msb = true from rfl, Bool.and_eq_true]
  exact and_congr (by simp) (Bool.xor_iff_ne.trans ne_comm)

/-- V by the range: the signed sum is no signed byte. -/
theorem addCore_overflow_range (a b : Byte) (cin : Bool) :
    (addCore a b cin).2.2 =
      decide (a.toInt + b.toInt + (cin.toNat : Int) < -128 ∨ 127 < a.toInt + b.toInt + (cin.toNat : Int)) := by
  have ha := a.isLt
  have hb := b.isLt
  have hc := cin.toNat_le
  rw [Bool.eq_iff_iff, addCore_overflow_signs, addCore_sum, decide_eq_true_iff, ne_eq]
  simp only [BitVec.msb_eq_decide, decide_eq_decide, BitVec.toInt_eq_toNat_cond, BitVec.toNat_ofNat]
  omega

/-! ## SBC's operand (R172) -/

theorem toNat_complement (m : Byte) : (m ^^^ 0xFF#8).toNat = 255 - m.toNat := by
  rw [show m ^^^ 0xFF#8 = ~~~m from BitVec.xor_allOnes, BitVec.toNat_not]

theorem toInt_complement (m : Byte) : (m ^^^ 0xFF#8).toInt = -m.toInt - 1 := by
  have hm := m.isLt
  simp only [BitVec.toInt_eq_toNat_cond, toNat_complement]
  omega

/-- The sum with the complement is the difference, 256 higher. -/
theorem sum_complement (a m : Byte) (cin : Bool) :
    ((a.toNat + (m ^^^ 0xFF#8).toNat + cin.toNat : Nat) : Int) =
      (a.toNat : Int) - m.toNat - (1 - (cin.toNat : Int)) + 256 := by
  have hm := m.isLt
  rw [toNat_complement]
  omega

theorem addCore_complement_sum (a m : Byte) (cin : Bool) :
    (addCore a (m ^^^ 0xFF#8) cin).1 = BitVec.ofInt 8 ((a.toNat : Int) - m.toNat - (1 - (cin.toNat : Int))) := by
  rw [addCore_sum, ← BitVec.ofInt_natCast, sum_complement]
  apply BitVec.eq_of_toInt_eq
  rw [BitVec.toInt_ofInt, BitVec.toInt_ofInt]
  exact Int.add_bmod_right ..

theorem addCore_complement_carry (a m : Byte) (cin : Bool) :
    (addCore a (m ^^^ 0xFF#8) cin).2.1 = decide (0 ≤ (a.toNat : Int) - m.toNat - (1 - (cin.toNat : Int))) := by
  have hsum := sum_complement a m cin
  rw [addCore_carry, decide_eq_decide]
  omega

theorem addCore_complement_overflow (a m : Byte) (cin : Bool) :
    (addCore a (m ^^^ 0xFF#8) cin).2.2 =
      decide (a.toInt - m.toInt - (1 - (cin.toNat : Int)) < -128 ∨
        127 < a.toInt - m.toInt - (1 - (cin.toNat : Int))) := by
  rw [addCore_overflow_range, toInt_complement, decide_eq_decide]
  omega

/-! ## The flags of a sum (R171) -/

theorem nz_setAddFlags (r : Byte × Bool × Bool) (p : Byte) : NZ r.1 (setAddFlags r p) := nz_setNZ _ _

theorem flag_c_setAddFlags (r : Byte × Bool × Bool) (p : Byte) : flag .c (setAddFlags r p) = r.2.1 := by
  rw [setAddFlags, onlyFlags_setNZ _ _ .c (by decide), flag_setFlag_ne (by decide), flag_setFlag_same]

theorem flag_v_setAddFlags (r : Byte × Bool × Bool) (p : Byte) : flag .v (setAddFlags r p) = r.2.2 := by
  rw [setAddFlags, onlyFlags_setNZ _ _ .v (by decide), flag_setFlag_same]

theorem onlyFlags_setAddFlags (r : Byte × Bool × Bool) (p : Byte) :
    OnlyFlags [.n, .z, .c, .v] p (setAddFlags r p) := by
  intro f hf
  obtain ⟨hn, hz, hc, hv⟩ : f ≠ .n ∧ f ≠ .z ∧ f ≠ .c ∧ f ≠ .v := by simpa using hf
  rw [setAddFlags, onlyFlags_setNZ _ _ f (by simp [hn, hz]), flag_setFlag_ne hv, flag_setFlag_ne hc]

/-- What an addition into A leaves, from what the adder answers. -/
theorem addToA_answer {m : Byte} {u : State} {r : Byte} {c v : Bool} (hr : addCore u.a m (flag .c u.p) = (r, c, v))
    (n : Nat) :
    let t := (addToA m u).complete n
    t = { u.complete n with a := r, p := t.p } ∧ NZ r t.p ∧ flag .c t.p = c ∧ flag .v t.p = v ∧
      OnlyFlags [.n, .z, .c, .v] u.p t.p := by
  have ht : addToA m u = (u.setA r).setP (setAddFlags (r, c, v) u.p) := by rw [addToA, hr]
  rw [ht]
  exact ⟨rfl, nz_setAddFlags _ u.p, flag_c_setAddFlags _ u.p, flag_v_setAddFlags _ u.p, onlyFlags_setAddFlags _ u.p⟩

end Sys2Proof.Proofs

/-! The statements about the arithmetic and logic (43_arith_logic.md). -/
namespace Sys2Proof.Proofs

open Sys2Proof.Machine

/-- Settles O29: the carry is bit 8 of a sum below 512, the overflow compares bit 7 of the operands and the result. -/
theorem adderCarryAndOverflowAreArithmetic : Obligations.AdderCarryAndOverflowAreArithmetic := by
  unfold Obligations.AdderCarryAndOverflowAreArithmetic
  intro a b cin
  exact ⟨BitVec.toNat_ofNat .., addCore_carry a b cin, addCore_overflow_range a b cin, addCore_overflow_signs a b cin⟩

/-- Settles O32: ADC is the adder on the operand. -/
theorem adcAddsWithCarry : Obligations.AdcAddsWithCarry := by
  unfold Obligations.AdcAddsWithCarry
  refine readClaim_of_effect (g := addA) rfl (by decide) fun m u n => ?_
  exact addToA_answer (Prod.ext (addCore_sum ..) (Prod.ext (addCore_carry ..) (addCore_overflow_range ..))) n

/-- Settles O33: SBC is the adder on the operand's complement, whose sum is the difference and 256. -/
theorem sbcSubtractsWithBorrow : Obligations.SbcSubtractsWithBorrow := by
  unfold Obligations.SbcSubtractsWithBorrow
  refine readClaim_of_effect (g := subA) rfl (by decide) fun m u n => ?_
  exact addToA_answer (Prod.ext (addCore_complement_sum ..)
    (Prod.ext (addCore_complement_carry ..) (addCore_complement_overflow ..))) n

/-- Settles O34: each of the three writes A and then N and Z from one byte, and its rows are the table's. -/
theorem logicCombinesWithA : Obligations.LogicCombinesWithA := by
  unfold Obligations.LogicCombinesWithA
  refine ⟨readClaim_of_effect (g := andA) rfl (by decide) fun m u n => ?_,
    readClaim_of_effect (g := orA) rfl (by decide) fun m u n => ?_,
    readClaim_of_effect (g := xorA) rfl (by decide) fun m u n => ?_⟩
  · exact ⟨rfl, nz_setNZ (u.a &&& m) u.p, onlyFlags_setNZ (u.a &&& m) u.p⟩
  · exact ⟨rfl, nz_setNZ (u.a ||| m) u.p, onlyFlags_setNZ (u.a ||| m) u.p⟩
  · exact ⟨rfl, nz_setNZ (u.a ^^^ m) u.p, onlyFlags_setNZ (u.a ^^^ m) u.p⟩

end Sys2Proof.Proofs

/-! SUPPORT. The execution of the instructions that modify one byte of memory or A, and the claims about a mnemonic that
follow from its byte operation and its entries (41_address_resolver.md R123; 44_shift_rotate.md R194). -/
namespace Sys2Proof.Proofs

open Sys2Proof.Machine Sys2Proof.Claims Sys2Proof.Laws

variable {mn : Mnemonic} {rows : List Row} {i : Instr} {s : State} {m : MemOperand} {ea : Addr} {crossed : Bool}
  {g : Byte → Byte → Byte × Byte}

/-! ## The three outcomes -/

theorem exec_modify_backed (hg : modifyEffect i.mnemonic = some g) (ho : i.operand = .memory m)
    (h : resolve m s = .ok (ea, crossed)) (hb : Backed s ea) :
    exec i s = .next { passed i (cost i.opcode crossed 0) s with
      p := (g (Memory.read s.mem ea.toNat) s.p).2
      mem := Memory.write s.mem ea.toNat (g (Memory.read s.mem ea.toNat) s.p).1 } := by
  obtain ⟨-, -, -, modify, -⟩ := exec_shapes i s
  rw [modify g m hg ho, modifyMemory_next h hb, memLength_of_operand ho]
  rfl

theorem stops_of_modify_unbacked (hg : modifyEffect i.mnemonic = some g) (ho : i.operand = .memory m)
    (h : resolve m s = .ok (ea, crossed)) (hb : ¬ Backed s ea) : Stops i (.outOfRange ea .read) s := by
  obtain ⟨-, -, -, modify, -⟩ := exec_shapes i s
  rw [Stops, modify g m hg ho, modifyMemory_fault h hb, memLength_of_operand ho]
  rfl

theorem exec_modify_accumulator (hg : modifyEffect i.mnemonic = some g) (ho : i.operand = .accumulator) (s : State) :
    exec i s = .next { passed i (cost i.opcode false 0) s with a := (g s.a s.p).1, p := (g s.a s.p).2 } := by
  obtain ⟨-, -, -, -, accumulator⟩ := exec_shapes i s
  rw [accumulator g hg ho, passed, Instr.length, ho]
  rfl

/-! ## The claims -/

section
variable {out : Byte → Byte → Byte} {flags : Byte → Byte → Byte → Prop} {table : List Row}
  (hg : modifyEffect mn = some g) (hanswer : ∀ v p, (g v p).1 = out v p ∧ flags v p (g v p).2)
include hg hanswer

/-- A mnemonic's claim about its memory forms, some of its entries, when none of them has the page-crossing modifier. -/
theorem modifyClaim_of_effect (htable : table.Perm (quotedRows mn)) (hsub : rows ⊆ table)
    (hfixed : ∀ r ∈ rows, r.page = false) : ModifyClaim mn rows out flags := by
  refine ⟨fun r hr i s m ea crossed hi ho h hb => ?_, fun i s m ea crossed hi ho h hb => ?_⟩
  · obtain ⟨rfl, hcost⟩ := mnemonic_and_cost_of_row htable (hsub hr) hi
    have hcycles : cost i.opcode crossed 0 = r.cycles := by simp [hcost, Row.cost, hfixed r hr]
    obtain ⟨hout, hflags⟩ := hanswer (Memory.read s.mem ea.toNat) s.p
    refine ⟨_, ?_, hflags, stores_write _ _ _⟩
    rw [exec_modify_backed hg ho h hb, hcycles, hout]
  · subst hi
    exact stops_of_modify_unbacked hg ho h hb

/-- A shift's claim, when its entries are the accumulator form, of 2 cycles, and the memory forms. -/
theorem shiftClaim_of_effect {acc : Instr} {op : Byte} (hmn : acc.mnemonic = mn) (ho : acc.operand = .accumulator)
    (hop : acc.opcode = op) (htable : (⟨op, .accumulator, 2, false⟩ :: rows).Perm (quotedRows mn))
    (hfixed : ∀ r ∈ rows, r.page = false) : ShiftClaim mn acc op rows out flags := by
  refine ⟨rows_of_perm htable, by rw [encode, ho, hop]; rfl, fun s => ?_,
    modifyClaim_of_effect hg hanswer htable (List.subset_cons_self _ _) hfixed⟩
  subst hmn
  obtain ⟨-, hcost⟩ := mnemonic_and_cost_of_row htable List.mem_cons_self hop
  obtain ⟨hout, hflags⟩ := hanswer s.a s.p
  refine ⟨_, ?_, hflags⟩
  rw [exec_modify_accumulator hg ho, hcost, hout]
  rfl

end

end Sys2Proof.Proofs

/-! SUPPORT. The shifts and rotates as arithmetic on the byte, with the flags they leave (44_shift_rotate.md R190 to
R193). -/
namespace Sys2Proof.Proofs

open Sys2Proof.Machine Sys2Proof.Claims

/-- The answer of a shift whose byte is `r` and which moves the bit `c` out: N and Z of P are those of the byte. -/
def shifted (r : Byte) (c : Bool) (p : Byte) : Byte × Byte := (r, setNZ r (setFlag .c c p))

theorem flag_c_shifted (r : Byte) (c : Bool) (p : Byte) : flag .c (shifted r c p).2 = c := by
  rw [shifted, onlyFlags_setNZ _ _ .c (by decide), flag_setFlag_same]

theorem nz_shifted (r : Byte) (c : Bool) (p : Byte) : NZ r (shifted r c p).2 := nz_setNZ _ _

theorem onlyFlags_shifted (r : Byte) (c : Bool) (p : Byte) : OnlyFlags [.c, .n, .z] p (shifted r c p).2 := by
  intro f hf
  obtain ⟨hc, hn, hz⟩ : f ≠ .c ∧ f ≠ .n ∧ f ≠ .z := by simpa using hf
  rw [shifted, onlyFlags_setNZ _ _ f (by simp [hn, hz]), flag_setFlag_ne hc]

/-! ## The bit moved out -/

theorem getLsbD_seven_eq_msb (v : Byte) : v.getLsbD 7 = v.msb := (BitVec.msb_eq_getLsbD_last v).symm

theorem getLsbD_zero_eq_decide (v : Byte) : v.getLsbD 0 = decide (v.toNat % 2 = 1) := Nat.testBit_zero v.toNat

/-! ## The shifted byte -/

theorem toNat_carryByte (c : Bool) : (carryByte c).toNat = c.toNat := by cases c <;> rfl

theorem getElem_carryByte (c : Bool) {k : Nat} (hk : k < 8) : (carryByte c)[k] = (decide (k = 0) && c) := by
  cases c <;> simp [carryByte]

/-- Doubling, with the carry put into the bit left free. -/
theorem double_or_carry (v : Byte) (c : Bool) : v <<< 1 ||| carryByte c = v.shiftConcat c := by
  ext k hk
  rw [BitVec.getElem_or, BitVec.getElem_shiftLeft, getElem_carryByte, BitVec.getElem_shiftConcat]
  by_cases h : k = 0 <;> simp [h]

theorem shiftConcat_eq_ofNat (v : Byte) (c : Bool) : v.shiftConcat c = BitVec.ofNat 8 (2 * v.toNat + c.toNat) := by
  apply BitVec.eq_of_toNat_eq
  rw [BitVec.toNat_shiftConcat, BitVec.toNat_ofNat, Nat.shiftLeft_eq, Nat.mul_comm]

/-- Halving, with the carry put into the bit left free. -/
theorem halve_or_carry (v : Byte) (c : Bool) :
    v >>> 1 ||| carryByte c <<< 7 = BitVec.ofNat 8 (v.toNat / 2 + 128 * c.toNat) := by
  have hv : v.toNat / 2 < 2 ^ 7 := Nat.div_lt_of_lt_mul v.isLt
  have hc := c.toNat_le
  apply BitVec.eq_of_toNat_eq
  rw [BitVec.toNat_or, BitVec.toNat_ushiftRight, BitVec.toNat_shiftLeft, toNat_carryByte, BitVec.toNat_ofNat]
  calc v.toNat >>> 1 ||| c.toNat <<< 7 % 2 ^ 8
      = 2 ^ 7 * c.toNat ||| v.toNat / 2 := by
        rw [Nat.or_comm, Nat.shiftLeft_eq, Nat.shiftRight_eq_div_pow, Nat.mod_eq_of_lt (by omega), Nat.mul_comm,
          pow_one]
    _ = 2 ^ 7 * c.toNat + v.toNat / 2 := (Nat.two_pow_add_eq_or_of_lt hv _).symm
    _ = (v.toNat / 2 + 128 * c.toNat) % 2 ^ 8 := by omega

/-- The carry put into bit 7 is the sign of the halved byte. -/
theorem sign_of_halved (v : Byte) (c : Bool) :
    decide (128 ≤ (BitVec.ofNat 8 (v.toNat / 2 + 128 * c.toNat)).toNat) = c := by
  have hv := v.isLt
  rw [BitVec.toNat_ofNat]
  cases c
  · exact decide_eq_false (by rw [Bool.toNat_false]; omega)
  · exact decide_eq_true (by rw [Bool.toNat_true]; omega)

/-! ## The four operations -/

theorem shiftAsl_eq (v p : Byte) : shiftAsl v p = shifted (BitVec.ofNat 8 (2 * v.toNat)) v.msb p := by
  have h : v <<< 1 = BitVec.ofNat 8 (2 * v.toNat) := by
    simpa [carryByte, shiftConcat_eq_ofNat] using double_or_carry v false
  rw [← h, ← getLsbD_seven_eq_msb]
  rfl

theorem shiftLsr_eq (v p : Byte) :
    shiftLsr v p = shifted (BitVec.ofNat 8 (v.toNat / 2)) (decide (v.toNat % 2 = 1)) p := by
  have h : v >>> 1 = BitVec.ofNat 8 (v.toNat / 2) := by
    simpa [carryByte] using halve_or_carry v false
  rw [← h, ← getLsbD_zero_eq_decide]
  rfl

theorem shiftRol_eq_shiftConcat (v p : Byte) : shiftRol v p = shifted (v.shiftConcat (flag .c p)) v.msb p := by
  rw [← double_or_carry, ← getLsbD_seven_eq_msb]
  rfl

theorem shiftRor_eq (v p : Byte) :
    shiftRor v p =
      shifted (BitVec.ofNat 8 (v.toNat / 2 + 128 * (flag .c p).toNat)) (decide (v.toNat % 2 = 1)) p := by
  rw [← halve_or_carry, ← getLsbD_zero_eq_decide]
  rfl

end Sys2Proof.Proofs

/-! SUPPORT. ROL as the rotation of the nine bits that C and the byte make (44_shift_rotate.md R192). -/
namespace Sys2Proof.Proofs

open Sys2Proof.Machine Sys2Proof.Claims

/-! ## Rotations of a word of any width -/

theorem rotateLeft_rotateLeft {w : Nat} (x : BitVec w) (m n : Nat) :
    (x.rotateLeft m).rotateLeft n = x.rotateLeft (n + m) := by
  apply BitVec.eq_of_getMsbD_eq
  intro k hk
  simp only [BitVec.getMsbD_rotateLeft, Nat.mod_lt _ (Nat.zero_lt_of_lt hk), decide_true, Bool.true_and]
  rw [Nat.add_mod_mod, ← Nat.add_assoc, Nat.add_comm m n]

theorem rotateLeft_zero {w : Nat} (x : BitVec w) : x.rotateLeft 0 = x := by
  apply BitVec.eq_of_getMsbD_eq
  intro k hk
  rw [BitVec.getMsbD_rotateLeft, Nat.zero_add, Nat.mod_eq_of_lt hk, decide_eq_true hk, Bool.true_and]

/-- As many rotations by one as the word has bits. -/
theorem rotateLeft_width {w : Nat} (x : BitVec w) : x.rotateLeft w = x := by
  rw [← BitVec.rotateLeft_mod_eq_rotateLeft, Nat.mod_self, rotateLeft_zero]

/-! ## The nine bits -/

/-- A byte below the carry of a status byte. -/
def nineBits (x : Byte × Byte) : BitVec 9 := BitVec.cons (flag .c x.2) x.1

theorem eq_of_nineBits_eq {x y : Byte × Byte} (h : nineBits x = nineBits y) :
    x.1 = y.1 ∧ flag .c x.2 = flag .c y.2 := by
  constructor
  · simpa [nineBits] using congrArg (BitVec.setWidth 8) h
  · simpa [nineBits] using congrArg BitVec.msb h

theorem nineBits_shiftRol (x : Byte × Byte) : nineBits (shiftRol x.1 x.2) = (nineBits x).rotateLeft 1 := by
  rw [shiftRol_eq_shiftConcat, nineBits, flag_c_shifted]
  ext k hk
  rw [BitVec.getElem_rotateLeft]
  simp only [nineBits, shifted, BitVec.getElem_cons, BitVec.getElem_shiftConcat]
  by_cases hlow : k = 0
  · simp [hlow]
  by_cases hhigh : k = 8
  · subst hhigh
    exact (getLsbD_seven_eq_msb x.1).symm
  · have hk9 : k - 1 ≠ 8 := by omega
    simp [hlow, hhigh, hk9]

theorem nineBits_repeat_shiftRol (n : Nat) (x : Byte × Byte) :
    nineBits (Nat.repeat (fun x => shiftRol x.1 x.2) n x) = (nineBits x).rotateLeft n := by
  induction n with
  | zero => exact (rotateLeft_zero _).symm
  | succ n ih => rw [Nat.repeat, nineBits_shiftRol, ih, rotateLeft_rotateLeft, Nat.add_comm]

/-- Nine rotations keep the nine bits. -/
theorem nine_shiftRol (v p : Byte) :
    ∃ q, Nat.repeat (fun x => shiftRol x.1 x.2) 9 (v, p) = (v, q) ∧ flag .c q = flag .c p := by
  obtain ⟨hbyte, hcarry⟩ := eq_of_nineBits_eq ((nineBits_repeat_shiftRol 9 (v, p)).trans (rotateLeft_width _))
  exact ⟨(Nat.repeat (fun x => shiftRol x.1 x.2) 9 (v, p)).2, Prod.ext hbyte rfl, hcarry⟩

end Sys2Proof.Proofs

/-! The statements about the shifts and rotates (44_shift_rotate.md). -/
namespace Sys2Proof.Proofs

open Sys2Proof.Machine

/-- Settles O35: the shift left doubles, and its rows are the table's. -/
theorem aslShiftsLeft : Obligations.AslShiftsLeft := by
  unfold Obligations.AslShiftsLeft
  refine shiftClaim_of_effect (g := shiftAsl) rfl (fun v p => ?_) rfl rfl rfl (by decide) (by decide)
  rw [shiftAsl_eq]
  exact ⟨rfl, flag_c_shifted .., nz_shifted .., onlyFlags_shifted _ _ _⟩

/-- Settles O36: the shift right halves, and no bit comes into bit 7. -/
theorem lsrShiftsRight : Obligations.LsrShiftsRight := by
  unfold Obligations.LsrShiftsRight
  refine shiftClaim_of_effect (g := shiftLsr) rfl (fun v p => ?_) rfl rfl rfl (by decide) (by decide)
  rw [shiftLsr_eq]
  have hnz := nz_shifted (BitVec.ofNat 8 (v.toNat / 2)) (decide (v.toNat % 2 = 1)) p
  exact ⟨rfl, flag_c_shifted .., hnz, hnz.1.trans (sign_of_halved v false), onlyFlags_shifted _ _ _⟩

/-- Settles O37: the rotate left doubles and adds C, and nine rotations turn the nine bits of C and the byte once. -/
theorem rolRotatesLeftThroughCarry : Obligations.RolRotatesLeftThroughCarry := by
  unfold Obligations.RolRotatesLeftThroughCarry
  refine ⟨shiftClaim_of_effect (g := shiftRol) rfl (fun v p => ?_) rfl rfl rfl (by decide) (by decide),
    nine_shiftRol⟩
  rw [shiftRol_eq_shiftConcat, shiftConcat_eq_ofNat]
  exact ⟨rfl, flag_c_shifted .., nz_shifted .., onlyFlags_shifted _ _ _⟩

/-- Settles O38: the rotate right halves, and C comes into bit 7. -/
theorem rorRotatesRightThroughCarry : Obligations.RorRotatesRightThroughCarry := by
  unfold Obligations.RorRotatesRightThroughCarry
  refine shiftClaim_of_effect (g := shiftRor) rfl (fun v p => ?_) rfl rfl rfl (by decide) (by decide)
  rw [shiftRor_eq]
  have hnz := nz_shifted (BitVec.ofNat 8 (v.toNat / 2 + 128 * (flag .c p).toNat)) (decide (v.toNat % 2 = 1)) p
  exact ⟨rfl, flag_c_shifted .., hnz, hnz.1.trans (sign_of_halved v _), onlyFlags_shifted _ _ _⟩

end Sys2Proof.Proofs

/-! SUPPORT. The claim about a one-byte instruction that writes registers only, from its effect (40_sequencer.md R107;
41_address_resolver.md R122). -/
namespace Sys2Proof.Proofs

open Sys2Proof.Machine Sys2Proof.Claims Sys2Proof.Laws

variable {i : Instr} {op : Byte} {g : State → State}

theorem length_of_encode_singleton (h : encode i = [op]) : i.length = 1 := by
  have hbytes : i.operand.bytes = [] := (List.cons.inj h).2
  rw [Instr.length, ← operand_bytes_length, hbytes]
  rfl

theorem exec_implied (hg : ImpliedEffect i.mnemonic g) (s : State) : exec i s = runImplied i.opcode g s := by
  cases i <;> cases hg
  case clc | cld | cli | clv | sec | sed | sei | tax | tay | txa | tya | tsx | txs | inx | iny | dex | dey | nop => rfl

/-- An implied claim from the effect on a state whose instruction is passed, before the cost is counted. -/
theorem impliedClaim_of_effect (hg : ImpliedEffect i.mnemonic g) (hcode : encode i = [op])
    (hcost : cost i.opcode false 0 = 2) {effect : State → State → Prop}
    (heffect : ∀ u n, effect (u.complete n) ((g u).complete n)) : ImpliedClaim i op effect := by
  refine ⟨hcode, fun s => ⟨(g (s.advance 1)).complete 2, ?_, ?_⟩⟩
  · rw [exec_implied hg, runImplied, runPlain, hcost]
    rfl
  · rw [passed, length_of_encode_singleton hcode]
    exact heffect (s.advance 1) 2

end Sys2Proof.Proofs

/-! SUPPORT. The steps by one as arithmetic on the byte, and the answers of the operations that step a byte or an index
register (45_incdec.md R210 to R215). -/
namespace Sys2Proof.Proofs

open Sys2Proof.Machine Sys2Proof.Claims

theorem byte_succ_eq_ofNat (v : Byte) : v + 1#8 = BitVec.ofNat 8 (v.toNat + 1) :=
  BitVec.eq_of_toNat_eq (byte_succ_toNat v)

theorem byte_pred_eq_ofNat (v : Byte) : v - 1#8 = BitVec.ofNat 8 (v.toNat + 255) :=
  BitVec.eq_of_toNat_eq (byte_pred_toNat v)

theorem incByte_eq (v p : Byte) :
    incByte v p = (BitVec.ofNat 8 (v.toNat + 1), setNZ (BitVec.ofNat 8 (v.toNat + 1)) p) := by
  rw [incByte, byte_succ_eq_ofNat]

theorem decByte_eq (v p : Byte) :
    decByte v p = (BitVec.ofNat 8 (v.toNat + 255), setNZ (BitVec.ofNat 8 (v.toNat + 255)) p) := by
  rw [decByte, byte_pred_eq_ofNat]

/-- What a byte put into X leaves, with its N and Z. -/
theorem setX_withNZ_answer (v : Byte) (u : State) (n : Nat) :
    let t := ((u.setX v).withNZ v).complete n
    t = { u.complete n with x := v, p := t.p } ∧ NZ t.x t.p ∧ OnlyFlags [.n, .z] u.p t.p :=
  ⟨rfl, nz_setNZ v u.p, onlyFlags_setNZ v u.p⟩

/-- What a byte put into Y leaves, with its N and Z. -/
theorem setY_withNZ_answer (v : Byte) (u : State) (n : Nat) :
    let t := ((u.setY v).withNZ v).complete n
    t = { u.complete n with y := v, p := t.p } ∧ NZ t.y t.p ∧ OnlyFlags [.n, .z] u.p t.p :=
  ⟨rfl, nz_setNZ v u.p, onlyFlags_setNZ v u.p⟩

end Sys2Proof.Proofs

/-! The statements about the increments and decrements (45_incdec.md). -/
namespace Sys2Proof.Proofs

open Sys2Proof.Machine Sys2Proof.Claims

/-- Settles O39: INC and DEC are read-modify-writes whose rows are the table's, and one less is 255 more modulo 256. -/
theorem incAndDecChangeMemoryByOne : Obligations.IncAndDecChangeMemoryByOne := by
  unfold Obligations.IncAndDecChangeMemoryByOne
  have hinc : (modifyRows 0xE6 0xF6 0xEE 0xFE).Perm (quotedRows .inc) := by decide
  have hdec : (modifyRows 0xC6 0xD6 0xCE 0xDE).Perm (quotedRows .dec) := by decide
  refine ⟨rows_of_perm hinc,
    modifyClaim_of_effect (g := incByte) rfl (fun v p => ?_) hinc (List.Subset.refl _) (by decide),
    rows_of_perm hdec,
    modifyClaim_of_effect (g := decByte) rfl (fun v p => ?_) hdec (List.Subset.refl _) (by decide)⟩
  · rw [incByte_eq]
    exact ⟨rfl, nz_setNZ _ p, onlyFlags_setNZ _ p⟩
  · rw [decByte_eq]
    exact ⟨rfl, nz_setNZ _ p, onlyFlags_setNZ _ p⟩

/-- Settles O40: each of the four puts the stepped byte into its register and then N and Z from it, in 2 cycles. -/
theorem indexRegistersStepByOne : Obligations.IndexRegistersStepByOne := by
  unfold Obligations.IndexRegistersStepByOne
  refine ⟨impliedClaim_of_effect (i := .inx) .inx rfl (by decide) fun u n => ?_,
    impliedClaim_of_effect (i := .iny) .iny rfl (by decide) fun u n => ?_,
    impliedClaim_of_effect (i := .dex) .dex rfl (by decide) fun u n => ?_,
    impliedClaim_of_effect (i := .dey) .dey rfl (by decide) fun u n => ?_⟩
  · rw [byte_succ_eq_ofNat]
    exact setX_withNZ_answer _ u n
  · rw [byte_succ_eq_ofNat]
    exact setY_withNZ_answer _ u n
  · rw [byte_pred_eq_ofNat]
    exact setX_withNZ_answer _ u n
  · rw [byte_pred_eq_ofNat]
    exact setY_withNZ_answer _ u n

end Sys2Proof.Proofs

/-! SUPPORT. The flags that a compare and BIT leave (46_compare_bit.md R230, R234). -/
namespace Sys2Proof.Proofs

open Sys2Proof.Machine Sys2Proof.Claims

/-! ## The compare (R230) -/

theorem flag_c_compareFlags (reg m p : Byte) : flag .c (compareFlags reg m p) = decide (m.toNat ≤ reg.toNat) := by
  rw [compareFlags, onlyFlags_setNZ _ _ .c (by decide), flag_setFlag_same]

/-- The difference is 0 exactly when the bytes are equal. -/
theorem flag_z_compareFlags (reg m p : Byte) : flag .z (compareFlags reg m p) = decide (reg = m) := by
  rw [compareFlags, flag_setNZ, if_pos rfl, beq_eq_decide, decide_eq_decide]
  exact sub_eq_zero

theorem flag_n_compareFlags (reg m p : Byte) : flag .n (compareFlags reg m p) = (reg - m).msb := by
  rw [compareFlags, flag_setNZ, if_neg (by decide), if_pos rfl, getLsbD_seven_eq_msb]

theorem onlyFlags_compareFlags (reg m p : Byte) : OnlyFlags [.c, .z, .n] p (compareFlags reg m p) := by
  intro f hf
  obtain ⟨hc, hz, hn⟩ : f ≠ .c ∧ f ≠ .z ∧ f ≠ .n := by simpa using hf
  rw [compareFlags, onlyFlags_setNZ _ _ f (by simp [hn, hz]), flag_setFlag_ne hc]

/-- What a compare of any register with `m` leaves. -/
theorem compareFlags_answer (reg m : Byte) (u : State) (n : Nat) :
    let t := (u.setP (compareFlags reg m u.p)).complete n
    t = { u.complete n with p := t.p } ∧ flag .c t.p = decide (m.toNat ≤ reg.toNat) ∧
      flag .z t.p = decide (reg = m) ∧ flag .n t.p = (reg - m).msb ∧ OnlyFlags [.c, .z, .n] u.p t.p :=
  ⟨rfl, flag_c_compareFlags reg m u.p, flag_z_compareFlags reg m u.p, flag_n_compareFlags reg m u.p,
    onlyFlags_compareFlags reg m u.p⟩

/-! ## BIT (R234) -/

theorem flag_z_bitFlags (a m p : Byte) : flag .z (bitFlags a m p) = decide (a &&& m = 0) := by
  rw [bitFlags, flag_setFlag_ne (by decide), flag_setFlag_ne (by decide), flag_setFlag_same, beq_eq_decide]
  rfl

theorem flag_n_bitFlags (a m p : Byte) : flag .n (bitFlags a m p) = m.getLsbD 7 := by
  rw [bitFlags, flag_setFlag_ne (by decide), flag_setFlag_same]

theorem flag_v_bitFlags (a m p : Byte) : flag .v (bitFlags a m p) = m.getLsbD 6 := flag_setFlag_same ..

theorem onlyFlags_bitFlags (a m p : Byte) : OnlyFlags [.z, .n, .v] p (bitFlags a m p) := by
  intro f hf
  obtain ⟨hz, hn, hv⟩ : f ≠ .z ∧ f ≠ .n ∧ f ≠ .v := by simpa using hf
  rw [bitFlags, flag_setFlag_ne hv, flag_setFlag_ne hn, flag_setFlag_ne hz]

end Sys2Proof.Proofs

/-! The statements about the compares and BIT (46_compare_bit.md). -/
namespace Sys2Proof.Proofs

open Sys2Proof.Machine

/-- Settles O41: the three compares leave the flags of one comparison, of A, X or Y, and their rows are the table's. -/
theorem comparesSetCarryZeroAndSign : Obligations.ComparesSetCarryZeroAndSign := by
  unfold Obligations.ComparesSetCarryZeroAndSign
  refine ⟨readClaim_of_effect (g := compareA) rfl (by decide) fun m u n => ?_,
    readClaim_of_effect (g := compareX) rfl (by decide) fun m u n => ?_,
    readClaim_of_effect (g := compareY) rfl (by decide) fun m u n => ?_⟩
  · exact compareFlags_answer u.a m u n
  · exact compareFlags_answer u.x m u n
  · exact compareFlags_answer u.y m u n

/-- Settles O42: BIT writes Z, N and V one after another, and its rows are the table's. -/
theorem bitTestsTheOperand : Obligations.BitTestsTheOperand := by
  unfold Obligations.BitTestsTheOperand
  refine readClaim_of_effect (g := bitTest) rfl (by decide) fun m u n => ?_
  exact ⟨rfl, flag_z_bitFlags u.a m u.p, flag_n_bitFlags u.a m u.p, flag_v_bitFlags u.a m u.p,
    onlyFlags_bitFlags u.a m u.p⟩

end Sys2Proof.Proofs

/-! SUPPORT. The branches: the relative target as an integer sum, and the claim about a branch from the test that it runs
(41_address_resolver.md R134; 47_branch.md R250, R259). -/
namespace Sys2Proof.Proofs

open Sys2Proof.Machine Sys2Proof.Claims

/-- The sign extension keeps the offset's signed value. -/
theorem sext16_eq_ofInt (d : Byte) : sext16 d = BitVec.ofInt 16 d.toInt := by
  have hborrow : -0x100#16 = BitVec.ofInt 16 (-((2 ^ 8 : Nat) : Int)) := by decide
  rw [sext16, BitVec.toInt_eq_toNat_cond, zext16_eq_ofNat]
  by_cases h : d.toNat < 0x80
  · rw [if_pos h, if_pos (by omega), BitVec.ofInt_natCast]
  · rw [if_neg h, if_neg (by omega), BitVec.sub_eq_add_neg, hborrow, Int.sub_eq_add_neg,
      BitVec.ofInt_add, BitVec.ofInt_natCast]

theorem relativeTarget_eq_ofInt (pc : Addr) (d : Byte) :
    relativeTarget pc d = BitVec.ofInt 16 ((pc.toNat : Int) + d.toInt) := by
  rw [relativeTarget, sext16_eq_ofInt, BitVec.ofInt_add, BitVec.ofInt_natCast, BitVec.ofNat_toNat, BitVec.setWidth_eq]

theorem encode_length (i : Instr) : (encode i).length = i.length := by
  rw [encode, List.length_cons, operand_bytes_length, Instr.length, Nat.add_comm]

section
variable {op : Byte} {f : Flag} {on : Bool} (hcost : ∀ k, cost op false k = 2 + k)
include hcost

theorem branchIf_not_taken (d : Byte) {s : State} (h : flag f s.p ≠ on) :
    branchIf op f on d s = .next ((s.advance 2).complete 2) := by
  simp only [branchIf, State.advance_p, if_neg h, hcost]

/-- A taken branch costs one cycle more, and one more into another page. -/
theorem branchIf_taken (d : Byte) {s : State} (h : flag f s.p = on) :
    let after := s.pc + 2#16
    let target := BitVec.ofInt 16 ((after.toNat : Int) + d.toInt)
    branchIf op f on d s = .next (((s.advance 2).setPc target).complete
      (3 + (decide (after.toNat / 256 ≠ target.toNat / 256)).toNat)) := by
  simp only [branchIf, State.advance_p, if_pos h, hcost, relativeTarget_eq_ofInt, crosses_eq_decide, ← Nat.add_assoc]
  rfl

/-- A branch's claim from its encoding and its meaning, when its table entry has 2 cycles and no page penalty. -/
theorem branchClaim_of_branchIf {mk : Byte → Instr} (hcode : ∀ d, encode (mk d) = [op, d])
    (hexec : ∀ d s, exec (mk d) s = branchIf op f on d s) : BranchClaim mk op f on := by
  intro d s
  have hlength : (mk d).length = 2 := by rw [← encode_length, hcode]; rfl
  simp only [hexec, passed, hlength]
  exact ⟨hcode d, branchIf_not_taken hcost d, branchIf_taken hcost d⟩

end

end Sys2Proof.Proofs

/-! The statement about the branches (47_branch.md). -/
namespace Sys2Proof.Proofs

open Sys2Proof.Machine Sys2Proof.Laws

/-- Settles O43: each of the eight runs the branch of its own flag and value, and its opcode has the branches' cost. -/
theorem branchesTestOneFlag : Obligations.BranchesTestOneFlag := by
  unfold Obligations.BranchesTestOneFlag
  refine ⟨?_, ?_, ?_, ?_, ?_, ?_, ?_, ?_⟩ <;>
    exact branchClaim_of_branchIf (branch_cost _ (by decide)) (fun _ => rfl) fun _ _ => rfl

end Sys2Proof.Proofs

/-! SUPPORT. The stack instructions' faults: what each effect leaves when it stops (20_memory.md R60; 60_exceptions.md
R334, R335). -/
namespace Sys2Proof.Proofs

open Sys2Proof.Machine Sys2Proof.Claims Sys2Proof.Laws

variable {s t : State} {e : FaultRecord}

/-- What an instruction with this opcode has left alone when it stops: PC, and all of memory, S and P that only the
stack instructions write before they can stop. -/
structure StopFrame (op : Byte) (s t : State) : Prop where
  pc  : t.pc = s.pc
  mem : op ∉ [0x20#8, 0x00#8] → t.mem = s.mem
  sp  : op ∉ [0x20#8, 0x60#8, 0x68#8, 0x28#8, 0x00#8, 0x40#8] → t.sp = s.sp
  p   : op ∉ [0x00#8, 0x40#8] → t.p = s.p

/-- A stop before the first change. -/
theorem stopFrame_raise {op : Byte} {e' : FaultRecord} (h : raise e' s = .raised e t) : StopFrame op s t := by
  cases h
  exact ⟨rfl, fun _ => rfl, fun _ => rfl, fun _ => rfl⟩

theorem push_stopFrame {v op : Byte} (h : push v s = .error (.raised e t)) : StopFrame op s t := by
  by_cases hb : (stackAddr s.sp).toNat < s.memSize
  · rw [push_ok hb] at h; cases h
  · rw [push_out hb] at h; exact stopFrame_raise (Except.error.inj h)

/-- The opcodes of the pulling instructions but RTI, which stop with S changed only. -/
def pullOpcodes : List Byte := [0x60#8, 0x68#8, 0x28#8]

theorem stopFrame_of_pull {op : Byte} (hop : op ∈ pullOpcodes) (hpc : t.pc = s.pc) (hmem : t.mem = s.mem)
    (hp : t.p = s.p) : StopFrame op s t := by
  have hsp : ∀ q ∈ pullOpcodes, q ∈ [0x20#8, 0x60#8, 0x68#8, 0x28#8, 0x00#8, 0x40#8] := by decide
  exact ⟨hpc, fun _ => hmem, fun hn => absurd (hsp op hop) hn, fun _ => hp⟩

section
variable {op : Byte} (hop : op ∈ pullOpcodes)
include hop

theorem pull_stopFrame (h : pull s = .error (.raised e t)) : StopFrame op s t := by
  by_cases hb : (stackAddr (s.sp + 1#8)).toNat < s.memSize
  · rw [pull_ok hb] at h; cases h
  · rw [pull_out hb] at h; cases h; exact stopFrame_of_pull hop rfl rfl rfl

theorem pullWord_stopFrame (h : pullWord s = .error (.raised e t)) : StopFrame op s t := by
  obtain ⟨done, first, second⟩ := pullWord_cases s
  by_cases h1 : Backed s (stackAddr (s.sp + 1#8))
  · by_cases h2 : Backed s (stackAddr (s.sp + 2#8))
    · rw [done h1 h2] at h; cases h
    · rw [second h1 h2] at h; cases h; exact stopFrame_of_pull hop rfl rfl rfl
  · rw [first h1] at h; cases h; exact stopFrame_of_pull hop rfl rfl rfl

theorem returnFromSub_stopFrame (h : returnFromSub s = .error (.raised e t)) : StopFrame op s t := by
  unfold returnFromSub at h
  split at h <;> cases h
  next hw => exact pullWord_stopFrame hop hw

theorem pullA_stopFrame (h : pullA s = .error (.raised e t)) : StopFrame op s t := by
  unfold pullA at h
  split at h <;> cases h
  next hv => exact pull_stopFrame hop hv

theorem pullP_stopFrame (h : pullP s = .error (.raised e t)) : StopFrame op s t := by
  unfold pullP at h
  split at h <;> cases h
  next hv => exact pull_stopFrame hop hv

end

/-- A two-byte push that stops has pushed the high byte at most. -/
theorem pushWord_stopped {w : Addr} (h : pushWord w s = .error (.raised e t)) : t.pc = s.pc ∧ t.p = s.p := by
  obtain ⟨done, first, second⟩ := pushWord_cases w s
  by_cases h1 : Backed s (stackAddr s.sp)
  · by_cases h2 : Backed s (stackAddr (s.sp - 1#8))
    · rw [done h1 h2] at h; cases h
    · rw [second h1 h2] at h; cases h; exact ⟨rfl, rfl⟩
  · rw [first h1] at h; cases h; exact ⟨rfl, rfl⟩

theorem callSub_stopped {w : Addr} (h : callSub w s = .error (.raised e t)) : t.pc = s.pc ∧ t.p = s.p := by
  unfold callSub at h
  split at h <;> cases h
  next hw => exact pushWord_stopped hw

theorem jumpIndirect_stopFrame {w : Addr} {op : Byte} (h : jumpIndirect w s = .error (.raised e t)) :
    StopFrame op s t := by
  unfold jumpIndirect at h
  split at h
  · exact stopFrame_raise (Except.error.inj h)
  · cases h

/-- Interrupt entry writes PC last, when it can no longer stop. -/
theorem enterInterrupt_stopped {pushed : Byte} {vector : Addr}
    (h : enterInterrupt pushed vector s = .error (.raised e t)) : t.pc = s.pc := by
  obtain ⟨pushes, first, second, third⟩ := enterInterrupt_cases pushed vector s
  by_cases h1 : Backed s (stackAddr s.sp)
  · by_cases h2 : Backed s (stackAddr (s.sp - 1#8))
    · by_cases h3 : Backed s (stackAddr (s.sp - 2#8))
      · rw [pushes h1 h2 h3] at h
        split at h <;> cases h
        rfl
      · rw [third h1 h2 h3] at h; cases h; rfl
    · rw [second h1 h2] at h; cases h; rfl
  · rw [first h1] at h; cases h; rfl

theorem returnFromInterrupt_stopped (h : returnFromInterrupt s = .error (.raised e t)) :
    t.pc = s.pc ∧ t.mem = s.mem := by
  obtain ⟨done, first, second, third⟩ := returnFromInterrupt_cases s
  by_cases h1 : Backed s (stackAddr (s.sp + 1#8))
  · by_cases h2 : Backed s (stackAddr (s.sp + 2#8))
    · by_cases h3 : Backed s (stackAddr (s.sp + 3#8))
      · rw [done h1 h2 h3] at h; cases h
      · rw [third h1 h2 h3] at h; cases h; exact ⟨rfl, rfl⟩
    · rw [second h1 h2] at h; cases h; exact ⟨rfl, rfl⟩
  · rw [first h1] at h; cases h; exact ⟨rfl, rfl⟩

theorem plainEffect_stopFrame {i : Instr} {g : State → Res State} (hg : PlainEffect i g)
    (h : g s = .error (.raised e t)) : StopFrame i.opcode s t := by
  cases hg with
  | jmpAbs w => cases h
  | jmpInd w => exact jumpIndirect_stopFrame h
  | pha | php => exact push_stopFrame h
  | rts => exact returnFromSub_stopFrame (by decide) h
  | pla => exact pullA_stopFrame (by decide) h
  | plp => exact pullP_stopFrame (by decide) h
  | jsr w =>
    obtain ⟨hpc, hp⟩ := callSub_stopped h
    have hjsr : (Instr.jsr w).opcode = 0x20#8 := rfl
    rw [hjsr]
    exact ⟨hpc, fun hn => absurd (by decide) hn, fun hn => absurd (by decide) hn, fun _ => hp⟩
  | brk =>
    exact ⟨enterInterrupt_stopped h, fun hn => absurd (by decide) hn, fun hn => absurd (by decide) hn,
      fun hn => absurd (by decide) hn⟩
  | rti =>
    obtain ⟨hpc, hmem⟩ := returnFromInterrupt_stopped h
    exact ⟨hpc, fun _ => hmem, fun hn => absurd (by decide) hn, fun hn => absurd (by decide) hn⟩

theorem stopsAfter_stopFrame {op : Byte} {k : Nat} (h : StopsAfter s k (.fault (.raised e t))) :
    StopFrame op (s.advance k) t := by
  obtain ⟨_, -, he⟩ := h
  exact stopFrame_raise (Host.Outcome.fault.inj he).symm

/-- An instruction that stops has passed its own bytes and changed nothing else but what the stack instructions write
before they can stop. -/
theorem exec_stopFrame {i : Instr} (h : exec i s = .fault (.raised e t)) :
    StopFrame i.opcode (s.advance i.length) t := by
  cases exec_shape i with
  | immediate g v hg ho he => rw [he] at h; cases h
  | read g m hg ho he =>
    rw [he] at h; rw [← memLength_of_operand ho]
    rcases readMemory_cases i.opcode m g s with ⟨v, c, hn⟩ | hf
    · rw [hn] at h; cases h
    · exact stopsAfter_stopFrame (h ▸ hf)
  | store r m hr ho he =>
    rw [he] at h; rw [← memLength_of_operand ho]
    rcases storeMemory_cases i.opcode m (r s) s with ⟨ea, c, -, hn⟩ | hf
    · rw [hn] at h; cases h
    · exact stopsAfter_stopFrame (h ▸ hf)
  | modify g m hg ho he =>
    rw [he] at h; rw [← memLength_of_operand ho]
    rcases modifyMemory_cases i.opcode m g s with ⟨ea, v, c, -, hn⟩ | hf
    · rw [hn] at h; cases h
    · exact stopsAfter_stopFrame (h ▸ hf)
  | accumulator g hg ho he => rw [he] at h; cases h
  | branch f on d hb ho he =>
    rw [he] at h
    unfold branchIf at h
    dsimp only at h
    split at h <;> cases h
  | implied g hg ho he => rw [he] at h; cases h
  | plain g hg he =>
    rw [he] at h
    unfold runPlain at h
    cases hu : g (s.advance i.length) with
    | ok u => rw [hu] at h; cases h
    | error f => rw [hu] at h; cases h; exact plainEffect_stopFrame hg hu

end Sys2Proof.Proofs

/-! SUPPORT. Everything a step or an instruction can be when it stops with a raised fault, and what it then leaves
(60_exceptions.md R331 to R335). -/
namespace Sys2Proof.Proofs

open Sys2Proof.Machine Sys2Proof.Claims Sys2Proof.Laws

variable {i : Instr} {s t : State} {e : FaultRecord}

theorem not_unbacked_of_conforming (h : s.Conforming) (e : FaultRecord) : ¬ Unbacked s e := by
  rintro ⟨a, k, -, ha⟩
  exact absurd (le_trans h ha) a.isLt.not_ge

theorem exec_completes_of_conforming (h : s.Conforming) (i : Instr) :
    ∃ t, exec i s = .next t ∧ t.memSize = s.memSize := by
  rcases exec_answers i s with ⟨t, n, he, -, -, hk⟩ | ⟨e, t, he, hu, -⟩
  · exact ⟨_, he, hk.memSize⟩
  · exact absurd hu (not_unbacked_of_conforming h e)

theorem exec_ne_refused (i : Instr) (s : State) (r : Refusal) : exec i s ≠ .refused r := by
  intro h
  rcases exec_answers i s with ⟨t, n, he, -⟩ | ⟨e, t, he, -⟩ <;> rw [h] at he <;> cases he

/-- A raised fault is the illegal opcode at PC, the fault of the instruction at PC, or that of its operand bytes. -/
theorem step_raised_cases (h : step s = .fault (.raised e t)) :
    Ready s ∧
    ((Memory.read s.mem s.pc.toNat ∈ undefinedOpcodes ∧ e = .illegalOpcode (Memory.read s.mem s.pc.toNat) s.pc ∧
        t = (s.advance 1).setRun (.faulted e)) ∨
      (∃ i, i.opcode = Memory.read s.mem s.pc.toNat ∧ exec i s = .fault (.raised e t)) ∨
      ∃ k, 1 ≤ k ∧ k ≤ 2 ∧ Unbacked s e ∧ t = (s.advance k).setRun (.faulted e)) := by
  rcases step_cases s with ⟨-, hs⟩ | ⟨_, -, hs⟩ | ⟨-, -, hs⟩ |
    ⟨hready, ⟨hop, hs⟩ | ⟨-, ⟨i, hi, hs⟩ | ⟨_, k, hlow, hhigh, hs, hu⟩⟩⟩ <;> rw [h] at hs
  · cases hs
  · cases hs
  · cases hs
  · cases hs; exact ⟨hready, .inl ⟨mem_undefinedOpcodes.mpr (findRow_eq_none.mp hop), rfl, rfl⟩⟩
  · exact ⟨hready, .inr (.inl ⟨i, hi, hs.symm⟩)⟩
  · cases hs; exact ⟨hready, .inr (.inr ⟨k, hlow, hhigh, hu, rfl⟩)⟩

theorem unbacked_of_exec_raised (h : exec i s = .fault (.raised e t)) : Unbacked s e := by
  rcases exec_answers i s with ⟨u, n, he, -⟩ | ⟨e', u, he, hu, -⟩ <;> rw [h] at he <;> cases he
  exact hu

theorem not_unbacked_illegalOpcode {op : Byte} {a : Addr} : ¬ Unbacked s (.illegalOpcode op a) := by
  rintro ⟨_, _, h, -⟩
  cases h

/-- The state that a raised fault leaves, but for PC, memory, S and P: RUN holds the record, the counters, the host's
parameters and A, X, Y are kept. -/
structure FaultFrame (e : FaultRecord) (s t : State) : Prop where
  run     : t.run = .faulted e
  cyc     : t.cyc = s.cyc
  steps   : t.steps = s.steps
  memSize : t.memSize = s.memSize
  budget  : t.budget = s.budget
  haltReq : t.haltReq = s.haltReq
  a       : t.a = s.a
  x       : t.x = s.x
  y       : t.y = s.y

theorem exec_faultFrame (h : exec i s = .fault (.raised e t)) : FaultFrame e s t := by
  rcases exec_answers i s with ⟨u, n, he, -⟩ | ⟨e', u, he, -, hk, ha, hx, hy⟩ <;> rw [h] at he <;> cases he
  exact ⟨rfl, hk.cyc, hk.steps, hk.memSize, hk.budget, hk.haltReq, ha, hx, hy⟩

theorem faultFrame_advance (k : Nat) (e : FaultRecord) (s : State) :
    FaultFrame e s ((s.advance k).setRun (.faulted e)) := ⟨rfl, rfl, rfl, rfl, rfl, rfl, rfl, rfl, rfl⟩

theorem stopFrame_advance (op : Byte) (k : Nat) (e : FaultRecord) (s : State) :
    StopFrame op (s.advance k) ((s.advance k).setRun (.faulted e)) := stopFrame_raise (e' := e) rfl

theorem length_bounds (i : Instr) : 1 ≤ i.length ∧ i.length ≤ 3 := by
  have hle := operandBytes_le i.operand.mode
  rw [Instr.length]
  omega

/-- A step that stops leaves both frames, PC past 1 to 3 bytes. -/
theorem step_frames (h : step s = .fault (.raised e t)) : FaultFrame e s t ∧
    ∃ k, 1 ≤ k ∧ k ≤ 3 ∧ StopFrame (Memory.read s.mem s.pc.toNat) (s.advance k) t := by
  obtain ⟨-, ⟨-, -, rfl⟩ | ⟨i, hi, he⟩ | ⟨k, hlow, hhigh, -, rfl⟩⟩ := step_raised_cases h
  · exact ⟨faultFrame_advance 1 e s, 1, by decide, by decide, stopFrame_advance _ 1 e s⟩
  · obtain ⟨hlow, hhigh⟩ := length_bounds i
    exact ⟨exec_faultFrame he, i.length, hlow, hhigh, hi ▸ exec_stopFrame he⟩
  · exact ⟨faultFrame_advance k e s, k, hlow, by omega, stopFrame_advance _ k e s⟩

/-- A step raises the illegal opcode or the fault of an unbacked address, no other record. -/
theorem record_of_step_raised (h : step s = .fault (.raised e t)) :
    (∃ op a, e = .illegalOpcode op a) ∨ Unbacked s e := by
  obtain ⟨-, ⟨-, he, -⟩ | ⟨i, -, he⟩ | ⟨k, -, -, hu, -⟩⟩ := step_raised_cases h
  · exact .inl ⟨_, _, he⟩
  · exact .inr (unbacked_of_exec_raised he)
  · exact .inr hu

end Sys2Proof.Proofs

/-! The statements about the exceptions (60_exceptions.md R331 to R335, R344) and the reset (70_reset_and_hazards.md). -/
namespace Sys2Proof.Proofs

open Sys2Proof.Machine Sys2Proof.Claims Sys2Proof.Laws

/-- Settles O15: every fault but the illegal opcode names an address that a conforming image backs. -/
theorem conformingImageNeverGoesOutOfRange : Obligations.ConformingImageNeverGoesOutOfRange := by
  unfold Obligations.ConformingImageNeverGoesOutOfRange
  intro s hs
  refine ⟨exec_completes_of_conforming hs, fun hr => ?_⟩
  rcases step_cases s with ⟨-, h⟩ | ⟨e, hf, -⟩ | ⟨-, -, h⟩ | ⟨-, ⟨-, h⟩ | ⟨-, ⟨i, -, h⟩ | ⟨e, k, -, -, -, hu⟩⟩⟩
  · exact .inl ⟨s, h, rfl⟩
  · rw [hr] at hf; cases hf
  · exact .inl ⟨_, h, rfl⟩
  · exact .inr ⟨_, _, _, h, rfl⟩
  · rw [h]; exact .inl (exec_completes_of_conforming hs i)
  · exact absurd hu (not_unbacked_of_conforming hs e)

/-- Settles O7: the lookup alone raises the illegal opcode, every other fault is OutOfRange. -/
theorem undefinedOpcodeStopsTheStep : Obligations.UndefinedOpcodeStopsTheStep := by
  unfold Obligations.UndefinedOpcodeStopsTheStep
  refine ⟨fun s op hready hop hu => ?_, fun s t op a h => ?_⟩
  · subst hop
    have hnone := findRow_eq_none.mpr (mem_undefinedOpcodes.mp hu)
    rw [step_ready hready]
    rcases fetch_cases s (ready_pc hready) with ⟨-, hf⟩ | ⟨⟨r, hr⟩, -⟩
    · rw [hf]; rfl
    · rw [hnone] at hr; cases hr
  · obtain ⟨hready, ⟨hu, he, -⟩ | ⟨i, -, he⟩ | ⟨k, -, -, hu, -⟩⟩ := step_raised_cases h
    · cases he; exact ⟨hready, rfl, rfl, hu⟩
    · exact absurd (unbacked_of_exec_raised he) not_unbacked_illegalOpcode
    · exact absurd hu not_unbacked_illegalOpcode

/-- Settles O14: each thing a step can be is a next state or a fault, an instruction's by `exec_answers`. -/
theorem noStepIsRefused : Obligations.NoStepIsRefused := by
  unfold Obligations.NoStepIsRefused
  refine ⟨fun s r h => ?_, exec_ne_refused⟩
  rcases step_cases s with ⟨-, hs⟩ | ⟨_, -, hs⟩ | ⟨-, -, hs⟩ | ⟨-, ⟨-, hs⟩ | ⟨-, ⟨i, -, hs⟩ | ⟨_, _, -, -, hs, -⟩⟩⟩ <;>
    rw [h] at hs
  · cases hs
  · cases hs
  · cases hs
  · cases hs
  · exact exec_ne_refused i s r hs.symm
  · cases hs

/-- Settles O16: what every effect keeps, and what only the stack instructions write before they can stop. -/
theorem raisedFaultLeavesItsFrame : Obligations.RaisedFaultLeavesItsFrame := by
  unfold Obligations.RaisedFaultLeavesItsFrame
  intro s t e h
  obtain ⟨⟨hrun, -⟩, -⟩ := step_raised_cases h
  obtain ⟨⟨run, cyc, steps, memSize, budget, haltReq, a, x, y⟩, k, hlow, hhigh, pc, mem, sp, p⟩ := step_frames h
  exact ⟨hrun, run, cyc, steps, memSize, budget, haltReq, a, x, y, ⟨k, hlow, hhigh, pc⟩, mem, sp, p,
    record_of_step_raised h⟩

/-- Settles O3: the construction values, field by field. -/
theorem resetLeavesConstructionValues : Obligations.ResetLeavesConstructionValues := by
  unfold Obligations.ResetLeavesConstructionValues
  exact ⟨rfl, rfl, rfl, rfl, rfl, rfl, rfl, rfl⟩

/-- Settles O2: the empty image is canonical and has a cell nowhere, and the image's size is positive. -/
theorem resetMeetsStateInv : Obligations.ResetMeetsStateInv := by
  unfold Obligations.ResetMeetsStateInv
  exact ⟨reset_mem_wf, rfl, by decide⟩

end Sys2Proof.Proofs

/-! SUPPORT. What the flag instructions and the transfers to A leave (49_flags_transfer_nop.md R300 to R312). -/
namespace Sys2Proof.Proofs

open Sys2Proof.Machine Sys2Proof.Claims

theorem onlyFlags_setFlag (f : Flag) (on : Bool) (p : Byte) : OnlyFlags [f] p (setFlag f on p) :=
  fun _ hg => flag_setFlag_ne (List.ne_of_not_mem_cons hg) on p

/-- What a write of one flag leaves. -/
theorem setFlag_answer (f : Flag) (on : Bool) (u : State) (n : Nat) :
    let t := (u.setP (setFlag f on u.p)).complete n
    t = { u.complete n with p := t.p } ∧ flag f t.p = on ∧ OnlyFlags [f] u.p t.p :=
  ⟨rfl, flag_setFlag_same f on u.p, onlyFlags_setFlag f on u.p⟩

/-- What a byte put into A leaves, with its N and Z. -/
theorem setA_withNZ_answer (v : Byte) (u : State) (n : Nat) :
    let t := ((u.setA v).withNZ v).complete n
    t = { u.complete n with a := v, p := t.p } ∧ NZ t.a t.p ∧ OnlyFlags [.n, .z] u.p t.p :=
  ⟨rfl, nz_setNZ v u.p, onlyFlags_setNZ v u.p⟩

end Sys2Proof.Proofs

/-! The statements about the flag instructions, the transfers and NOP (49_flags_transfer_nop.md). -/
namespace Sys2Proof.Proofs

open Sys2Proof.Machine Sys2Proof.Claims

/-- Settles O51: each of the seven is one write of one flag, in 2 cycles. -/
theorem flagInstructionsWriteOneFlag : Obligations.FlagInstructionsWriteOneFlag := by
  unfold Obligations.FlagInstructionsWriteOneFlag
  exact ⟨impliedClaim_of_effect (i := .clc) .clc rfl (by decide) (setFlag_answer .c false),
    impliedClaim_of_effect (i := .cld) .cld rfl (by decide) (setFlag_answer .d false),
    impliedClaim_of_effect (i := .cli) .cli rfl (by decide) (setFlag_answer .i false),
    impliedClaim_of_effect (i := .clv) .clv rfl (by decide) (setFlag_answer .v false),
    impliedClaim_of_effect (i := .sec) .sec rfl (by decide) (setFlag_answer .c true),
    impliedClaim_of_effect (i := .sed) .sed rfl (by decide) (setFlag_answer .d true),
    impliedClaim_of_effect (i := .sei) .sei rfl (by decide) (setFlag_answer .i true)⟩

/-- Settles O52: a transfer puts the source into its register, all but TXS with the N and Z of the byte, in 2 cycles. -/
theorem transfersCopyARegister : Obligations.TransfersCopyARegister := by
  unfold Obligations.TransfersCopyARegister
  exact ⟨impliedClaim_of_effect (i := .tax) .tax rfl (by decide) fun u n => setX_withNZ_answer u.a u n,
    impliedClaim_of_effect (i := .tay) .tay rfl (by decide) fun u n => setY_withNZ_answer u.a u n,
    impliedClaim_of_effect (i := .txa) .txa rfl (by decide) fun u n => setA_withNZ_answer u.x u n,
    impliedClaim_of_effect (i := .tya) .tya rfl (by decide) fun u n => setA_withNZ_answer u.y u n,
    impliedClaim_of_effect (i := .tsx) .tsx rfl (by decide) fun u n => setX_withNZ_answer u.sp u n,
    impliedClaim_of_effect (i := .txs) .txs rfl (by decide) fun _ _ => rfl⟩

/-- Settles O53: the effect is none, in 2 cycles. -/
theorem nopChangesNothingElse : Obligations.NopChangesNothingElse := by
  unfold Obligations.NopChangesNothingElse
  exact impliedClaim_of_effect (i := .nop) .nop rfl (by decide) fun _ _ => rfl

end Sys2Proof.Proofs

/-! SUPPORT. The execution of the jumps and stack instructions by what their effect answers, and the bytes and words that
they push and pull (40_sequencer.md R107; 48_jump_stack.md R272 to R281). -/
namespace Sys2Proof.Proofs

open Sys2Proof.Machine Sys2Proof.Claims Sys2Proof.Laws

/-! ## The execution -/

section
variable {i : Instr} {g : State → Res State} {s t : State}

theorem exec_plain (hg : PlainEffect i g) (s : State) : exec i s = runPlain i.opcode i.length g s := by
  cases hg <;> rfl

/-- The effect runs with the instruction passed, and its answer is completed with the table's cost. -/
theorem exec_plain_next (hg : PlainEffect i g) {n : Nat} (hcost : cost i.opcode false 0 = n)
    (h : g (s.advance i.length) = .ok t) : exec i s = .next (t.complete n) := by
  rw [exec_plain hg, runPlain, h, hcost, finish]

theorem exec_plain_fault (hg : PlainEffect i g) {f : Fault} (h : g (s.advance i.length) = .error f) :
    exec i s = .fault f := by
  rw [exec_plain hg, runPlain, h, finish]

/-- A completed jump or stack instruction is its effect's answer. -/
theorem effect_of_exec_plain (hg : PlainEffect i g) (h : exec i s = .next t) :
    ∃ u n, g (s.advance i.length) = .ok u ∧ t = u.complete n := by
  rw [exec_plain hg, runPlain] at h
  cases hu : g (s.advance i.length) with
  | error f => rw [hu] at h; cases h
  | ok u => rw [hu] at h; cases h; exact ⟨u, _, rfl, rfl⟩

end

/-! ## Bytes and words -/

theorem hiByte_eq_ofNat (w : Addr) : hiByte w = BitVec.ofNat 8 (w.toNat / 256) := by
  rw [← hiByte_toNat, BitVec.ofNat_toNat, BitVec.setWidth_eq]

theorem loByte_eq_ofNat (w : Addr) : loByte w = BitVec.ofNat 8 (w.toNat % 256) := by
  rw [← loByte_toNat, BitVec.ofNat_toNat, BitVec.setWidth_eq]

/-- One more byte stored after others. -/
theorem stores_cons {m m' : Memory} {bytes : List (Nat × Byte)} (h : Stores m m' bytes) (a : Nat) (v : Byte) :
    Stores m (Memory.write m' a v) ((a, v) :: bytes) := by
  intro hm
  obtain ⟨hw, hr⟩ := h hm
  refine ⟨Memory.wf_write a v hw, fun b => ?_⟩
  rw [read_write a b v hw]
  by_cases hb : b = a
  · rw [if_pos hb, hb, List.lookup_cons_self, Option.getD_some]
  · rw [if_neg hb, hr, List.lookup_cons, beq_false_of_ne hb]

section
variable {lo hi : Addr} {s : State}

theorem readPair_ok (h1 : Backed s lo) (h2 : Backed s hi) :
    readPair lo hi s =
      .ok (BitVec.ofNat 16 ((Memory.read s.mem lo.toNat).toNat + 256 * (Memory.read s.mem hi.toNat).toNat)) := by
  rw [readPair, memRead_ok h1, memRead_ok h2, ← word16_eq_ofNat]

theorem readPair_low_out (h : ¬ Backed s lo) : readPair lo hi s = .error (.outOfRange lo .read) := by
  rw [readPair, memRead_out h]

theorem readPair_high_out (h1 : Backed s lo) (h2 : ¬ Backed s hi) :
    readPair lo hi s = .error (.outOfRange hi .read) := by
  rw [readPair, memRead_ok h1, memRead_out h2]

end

/-! ## The stack slots -/

theorem sub_two_add_one (x : Byte) : x - 2#8 + 1#8 = x - 1#8 := by bv_omega
theorem sub_three_add_one (x : Byte) : x - 3#8 + 1#8 = x - 2#8 := by bv_omega
theorem sub_three_add_two (x : Byte) : x - 3#8 + 2#8 = x - 1#8 := by bv_omega

/-- Different values of S are different slots. -/
theorem slot_ne {x y : Byte} (h : x ≠ y) : (stackAddr x).toNat ≠ (stackAddr y).toNat := by
  rw [stackAddr_toNat, stackAddr_toNat]
  exact fun he => h (BitVec.eq_of_toNat_eq (by omega))

theorem slot_ne_one (x : Byte) : (stackAddr x).toNat ≠ (stackAddr (x - 1#8)).toNat := slot_ne (by bv_omega)
theorem slot_ne_two (x : Byte) : (stackAddr x).toNat ≠ (stackAddr (x - 2#8)).toNat := slot_ne (by bv_omega)
theorem slot_one_ne_two (x : Byte) : (stackAddr (x - 1#8)).toNat ≠ (stackAddr (x - 2#8)).toNat := slot_ne (by bv_omega)

end Sys2Proof.Proofs

/-! SUPPORT. What the jumps, subroutines and the return from interrupt answer, from the words they read, push and pull
(41_address_resolver.md R131; 48_jump_stack.md R272 to R281). -/
namespace Sys2Proof.Proofs

open Sys2Proof.Machine Sys2Proof.Claims Sys2Proof.Laws

variable {s t : State} {f : Fault}

theorem jumpIndirect_of_read {w target : Addr} (h : read16 w s = .ok target) :
    jumpIndirect w s = .ok (s.setPc target) := by rw [jumpIndirect, h]

theorem jumpIndirect_of_read_error {w : Addr} {e : FaultRecord} (h : read16 w s = .error e) :
    jumpIndirect w s = .error (raise e s) := by rw [jumpIndirect, h]

theorem callSub_of_pushWord {w : Addr} (h : pushWord (s.pc - 1#16) s = .ok t) : callSub w s = .ok (t.setPc w) := by
  rw [callSub, h]

theorem callSub_of_pushWord_error {w : Addr} (h : pushWord (s.pc - 1#16) s = .error f) : callSub w s = .error f := by
  rw [callSub, h]

theorem pushWord_of_callSub {w : Addr} (h : callSub w s = .ok t) :
    ∃ u, pushWord (s.pc - 1#16) s = .ok u ∧ t = u.setPc w := by
  unfold callSub at h
  split at h <;> cases h
  next u hu => exact ⟨u, hu, rfl⟩

theorem returnFromSub_of_pullWord {w : Addr} (h : pullWord s = .ok (w, t)) :
    returnFromSub s = .ok (t.setPc (w + 1#16)) := by rw [returnFromSub, h]

theorem returnFromSub_of_pullWord_error (h : pullWord s = .error f) : returnFromSub s = .error f := by
  rw [returnFromSub, h]

theorem pullA_of_pull {v : Byte} (h : pull s = .ok (v, t)) : pullA s = .ok ((t.setA v).withNZ v) := by rw [pullA, h]

theorem pullA_of_pull_error (h : pull s = .error f) : pullA s = .error f := by rw [pullA, h]

theorem pullP_of_pull {v : Byte} (h : pull s = .ok (v, t)) : pullP s = .ok (t.setP v) := by rw [pullP, h]

theorem pullP_of_pull_error (h : pull s = .error f) : pullP s = .error f := by rw [pullP, h]

end Sys2Proof.Proofs

/-! SUPPORT. Interrupt entry, shared by BRK and the acknowledge: the image and the state after its three pushes, and its
outcome by the vector's two bytes (48_jump_stack.md R280; 60_exceptions.md R338 to R340). -/
namespace Sys2Proof.Proofs

open Sys2Proof.Machine Sys2Proof.Claims Sys2Proof.Laws

/-! ## The entry -/

/-- The image with the return address and a status byte pushed. -/
def entryImage (pushed : Byte) (s : State) : Memory :=
  Memory.write (Memory.write (Memory.write s.mem (stackAddr s.sp).toNat (hiByte s.pc))
    (stackAddr (s.sp - 1#8)).toNat (loByte s.pc)) (stackAddr (s.sp - 2#8)).toNat pushed

/-- The state after the pushes and the write of I, before the vector is read. -/
def entered (pushed : Byte) (s : State) : State :=
  { s with sp := s.sp - 3#8, mem := entryImage pushed s, p := setFlag .i true s.p }

theorem stores_entryImage (pushed : Byte) (s : State) :
    Stores s.mem (entryImage pushed s) [((stackAddr (s.sp - 2#8)).toNat, pushed),
      ((stackAddr (s.sp - 1#8)).toNat, loByte s.pc), ((stackAddr s.sp).toNat, hiByte s.pc)] :=
  stores_cons (stores_cons (stores_write _ _ _) _ _) _ _

section
variable {s : State} {vector : Addr} (h1 : Backed s (stackAddr s.sp)) (h2 : Backed s (stackAddr (s.sp - 1#8)))
  (h3 : Backed s (stackAddr (s.sp - 2#8)))
include h1 h2 h3

theorem enterInterrupt_pushed (pushed : Byte) : enterInterrupt pushed vector s =
    match read16 vector (entered pushed s) with
    | .error e => .error (raise e (entered pushed s))
    | .ok target => .ok { entered pushed s with pc := target } := by
  obtain ⟨pushes, -⟩ := enterInterrupt_cases pushed vector s
  exact pushes h1 h2 h3

theorem enterInterrupt_ok (pushed : Byte) (hlo : Backed s vector) (hhi : Backed s (vector + 1#16)) :
    enterInterrupt pushed vector s = .ok { entered pushed s with
      pc := BitVec.ofNat 16 ((Memory.read (entryImage pushed s) vector.toNat).toNat +
        256 * (Memory.read (entryImage pushed s) (vector + 1#16).toNat).toNat) } := by
  rw [enterInterrupt_pushed h1 h2 h3, read16, readPair_ok (s := entered pushed s) hlo hhi]
  rfl

theorem enterInterrupt_low_out (pushed : Byte) (hlo : ¬ Backed s vector) :
    enterInterrupt pushed vector s = .error (raise (.outOfRange vector .read) (entered pushed s)) := by
  rw [enterInterrupt_pushed h1 h2 h3, read16, readPair_low_out (s := entered pushed s) hlo]

theorem enterInterrupt_high_out (pushed : Byte) (hlo : Backed s vector) (hhi : ¬ Backed s (vector + 1#16)) :
    enterInterrupt pushed vector s = .error (raise (.outOfRange (vector + 1#16) .read) (entered pushed s)) := by
  rw [enterInterrupt_pushed h1 h2 h3, read16, readPair_high_out (s := entered pushed s) hlo hhi]

end

/-! ## The acknowledge -/

section
variable {k : InterruptKind} {s t : State}

theorem acknowledge_masked (hrun : ∀ e, s.run ≠ .faulted e) (hi : flag .i s.p = true) :
    acknowledge .irq s = .notTaken := by
  unfold acknowledge
  split
  next e he => exact absurd he (hrun e)
  next => rw [if_pos ⟨rfl, hi⟩]

theorem acknowledge_unmasked (hrun : ∀ e, s.run ≠ .faulted e) (hopen : k = .nmi ∨ flag .i s.p = false) :
    acknowledge k s = takeInterrupt k s := by
  unfold acknowledge
  split
  next e he => exact absurd he (hrun e)
  next =>
    refine if_neg ?_
    rintro ⟨rfl, hi⟩
    rcases hopen with hk | hk
    · cases hk
    · rw [hi] at hk; cases hk

theorem takeInterrupt_of_ok (h : enterInterrupt (pushedByInterrupt s.p) k.vector s = .ok t) :
    takeInterrupt k s = .taken { t with cyc := t.cyc + 7 } := by rw [takeInterrupt, h]

theorem takeInterrupt_of_error {f : Fault} (h : enterInterrupt (pushedByInterrupt s.p) k.vector s = .error f) :
    takeInterrupt k s = .fault f := by rw [takeInterrupt, h]

/-- A taken acknowledge has entered its interrupt. -/
theorem enterInterrupt_of_taken (h : acknowledge k s = .taken t) :
    ∃ u, enterInterrupt (pushedByInterrupt s.p) k.vector s = .ok u ∧ t = { u with cyc := u.cyc + 7 } := by
  unfold acknowledge at h
  split at h
  · cases h
  · split at h
    · cases h
    · unfold takeInterrupt at h
      split at h <;> cases h
      next u hu => exact ⟨u, hu, rfl⟩

end

end Sys2Proof.Proofs

/-! SUPPORT. What is pushed is pulled again: a byte, a word, and what interrupt entry pushes, from any state with the
stack that the push left (20_memory.md R60; 60_exceptions.md R343). -/
namespace Sys2Proof.Proofs

open Sys2Proof.Machine Sys2Proof.Claims Sys2Proof.Laws

/-- The second state has the stack of the first: its memory image, the image's size and S. -/
structure SameStack (t u : State) : Prop where
  mem     : u.mem = t.mem
  sp      : u.sp = t.sp
  memSize : u.memSize = t.memSize

variable {s t u : State}

theorem backed_congr {a : Addr} (h : u.memSize = s.memSize) : Backed u a ↔ Backed s a := by rw [Backed, Backed, h]

theorem pull_of_push {v : Byte} (hm : Memory.wf s.mem = true) (h : push v s = .ok t) (hu : SameStack t u) :
    pull u = .ok (v, { u with sp := s.sp }) := by
  by_cases hb : Backed s (stackAddr s.sp)
  · rw [push_ok hb] at h
    cases h
    obtain ⟨hmem, hsp, hsize⟩ := hu
    have hs : u.sp + 1#8 = s.sp := by rw [hsp]; exact BitVec.sub_add_cancel _ _
    have hread : Memory.read u.mem (stackAddr s.sp).toNat = v := by rw [hmem, read_write _ _ _ hm, if_pos rfl]
    have hbu : Backed u (stackAddr (u.sp + 1#8)) := hs ▸ (backed_congr hsize).mpr hb
    rw [pull_ok hbu, hs, hread]
  · rw [push_out hb] at h; cases h

theorem pullWord_of_pushWord {w : Addr} (hm : Memory.wf s.mem = true) (h : pushWord w s = .ok t)
    (hu : SameStack t u) : pullWord u = .ok (w, { u with sp := s.sp }) := by
  obtain ⟨done, first, second⟩ := pushWord_cases w s
  by_cases h1 : Backed s (stackAddr s.sp)
  · by_cases h2 : Backed s (stackAddr (s.sp - 1#8))
    · rw [done h1 h2] at h
      cases h
      obtain ⟨hmem, hsp, hsize⟩ := hu
      have hs1 : u.sp + 1#8 = s.sp - 1#8 := by rw [hsp]; exact sub_two_add_one s.sp
      have hs2 : u.sp + 2#8 = s.sp := by rw [hsp]; exact BitVec.sub_add_cancel _ _
      have hlo : Memory.read u.mem (stackAddr (s.sp - 1#8)).toNat = loByte w := by
        rw [hmem, read_write _ _ _ (Memory.wf_write _ _ hm), if_pos rfl]
      have hhi : Memory.read u.mem (stackAddr s.sp).toNat = hiByte w := by
        rw [hmem, read_write _ _ _ (Memory.wf_write _ _ hm), if_neg (slot_ne_one s.sp), read_write _ _ _ hm, if_pos rfl]
      obtain ⟨pulled, -⟩ := pullWord_cases u
      rw [hs1, hs2, hlo, hhi, word16_hi_lo] at pulled
      exact pulled ((backed_congr hsize).mpr h2) ((backed_congr hsize).mpr h1)
    · rw [second h1 h2] at h; cases h
  · rw [first h1] at h; cases h

theorem returnFromSub_of_callSub {w : Addr} (hm : Memory.wf s.mem = true) (h : callSub w s = .ok t)
    (hu : SameStack t u) : returnFromSub u = .ok { u with sp := s.sp, pc := s.pc } := by
  obtain ⟨r, hr, rfl⟩ := pushWord_of_callSub h
  have hpulled := pullWord_of_pushWord hm hr (u := u) ⟨hu.mem, hu.sp, hu.memSize⟩
  rw [returnFromSub_of_pullWord hpulled, BitVec.sub_add_cancel]
  rfl

theorem read_entryImage (pushed : Byte) (hm : Memory.wf s.mem = true) :
    Memory.read (entryImage pushed s) (stackAddr (s.sp - 2#8)).toNat = pushed ∧
    Memory.read (entryImage pushed s) (stackAddr (s.sp - 1#8)).toNat = loByte s.pc ∧
    Memory.read (entryImage pushed s) (stackAddr s.sp).toNat = hiByte s.pc := by
  have hm1 : Memory.wf (Memory.write s.mem (stackAddr s.sp).toNat (hiByte s.pc)) = true := Memory.wf_write _ _ hm
  have hm2 := Memory.wf_write (stackAddr (s.sp - 1#8)).toNat (loByte s.pc) hm1
  unfold entryImage
  refine ⟨?_, ?_, ?_⟩ <;> rw [read_write _ _ _ hm2]
  · rw [if_pos rfl]
  · rw [if_neg (slot_one_ne_two s.sp), read_write _ _ _ hm1, if_pos rfl]
  · rw [if_neg (slot_ne_two s.sp), read_write _ _ _ hm1, if_neg (slot_ne_one s.sp), read_write _ _ _ hm, if_pos rfl]

/-- An interrupt entry that is completed has its three slots backed. -/
theorem entered_of_enterInterrupt {pushed : Byte} {vector : Addr} (h : enterInterrupt pushed vector s = .ok t) :
    Backed s (stackAddr s.sp) ∧ Backed s (stackAddr (s.sp - 1#8)) ∧ Backed s (stackAddr (s.sp - 2#8)) ∧
      ∃ target, t = { entered pushed s with pc := target } := by
  obtain ⟨-, first, second, third⟩ := enterInterrupt_cases pushed vector s
  by_cases h1 : Backed s (stackAddr s.sp)
  · by_cases h2 : Backed s (stackAddr (s.sp - 1#8))
    · by_cases h3 : Backed s (stackAddr (s.sp - 2#8))
      · rw [enterInterrupt_pushed h1 h2 h3] at h
        split at h <;> cases h
        exact ⟨h1, h2, h3, _, rfl⟩
      · rw [third h1 h2 h3] at h; cases h
    · rw [second h1 h2] at h; cases h
  · rw [first h1] at h; cases h

/-- A return from interrupt restores S and PC of the entry, and gives the status byte that the entry pushed. -/
theorem returnFromInterrupt_of_enterInterrupt {pushed : Byte} {vector : Addr} (hm : Memory.wf s.mem = true)
    (h : enterInterrupt pushed vector s = .ok t) (hu : SameStack t u) :
    returnFromInterrupt u = .ok { u with sp := s.sp, p := pushed, pc := s.pc } := by
  obtain ⟨h1, h2, h3, target, rfl⟩ := entered_of_enterInterrupt h
  obtain ⟨hmem, hsp, hsize⟩ := hu
  have hs1 : u.sp + 1#8 = s.sp - 2#8 := by rw [hsp]; exact sub_three_add_one s.sp
  have hs2 : u.sp + 2#8 = s.sp - 1#8 := by rw [hsp]; exact sub_three_add_two s.sp
  have hs3 : u.sp + 3#8 = s.sp := by rw [hsp]; exact BitVec.sub_add_cancel _ _
  obtain ⟨hp, hlo, hhi⟩ := (show entryImage pushed s = u.mem from hmem.symm) ▸ read_entryImage pushed hm
  obtain ⟨pulled, -⟩ := returnFromInterrupt_cases u
  rw [hs1, hs2, hs3, hp, hlo, hhi, word16_hi_lo] at pulled
  exact pulled ((backed_congr hsize).mpr h3) ((backed_congr hsize).mpr h2) ((backed_congr hsize).mpr h1)

end Sys2Proof.Proofs

/-! The statements about the jumps, subroutines and the stack (48_jump_stack.md). -/
namespace Sys2Proof.Proofs

open Sys2Proof.Machine Sys2Proof.Claims Sys2Proof.Laws

/-- Settles O44: the pointer's word is a pair of reads, low byte first. -/
theorem jmpGoesToItsTarget : Obligations.JmpGoesToItsTarget := by
  unfold Obligations.JmpGoesToItsTarget
  intro w s
  rw [← addr_succ_toNat]
  refine ⟨rfl, rfl, exec_plain_next (.jmpAbs w) rfl rfl, fun h1 h2 => ?_, fun h => ?_, fun h1 h2 => ?_⟩
  · have hread : read16 w (s.advance 3) = .ok _ := readPair_ok h1 h2
    exact exec_plain_next (.jmpInd w) rfl (jumpIndirect_of_read hread)
  · have hread : read16 w (s.advance 3) = .error _ := readPair_low_out h
    exact exec_plain_fault (.jmpInd w) (jumpIndirect_of_read_error hread)
  · have hread : read16 w (s.advance 3) = .error _ := readPair_high_out h1 h2
    exact exec_plain_fault (.jmpInd w) (jumpIndirect_of_read_error hread)

/-- Settles O45: JSR is a push of its last byte's address, PC being past that byte. -/
theorem jsrPushesItsLastByteAddress : Obligations.JsrPushesItsLastByteAddress := by
  unfold Obligations.JsrPushesItsLastByteAddress
  intro w s
  dsimp only
  have hret : (s.advance 3).pc - 1#16 = s.pc + 2#16 := by rw [State.advance_pc]; bv_omega
  rw [← hiByte_eq_ofNat, ← loByte_eq_ofNat, ← hret]
  obtain ⟨done, first, second⟩ := pushWord_cases ((s.advance 3).pc - 1#16) (s.advance 3)
  refine ⟨rfl, fun h1 h2 => ⟨?_, stores_cons (stores_write _ _ _) _ _⟩, fun h1 => ?_, fun h1 h2 => ?_⟩
  · exact exec_plain_next (.jsr w) rfl (callSub_of_pushWord (done h1 h2))
  · exact exec_plain_fault (.jsr w) (callSub_of_pushWord_error (first h1))
  · exact exec_plain_fault (.jsr w) (callSub_of_pushWord_error (second h1 h2))

/-- Settles O46: RTS is a pull of a word, and PC is one past it. -/
theorem rtsReturnsPastThePulledAddress : Obligations.RtsReturnsPastThePulledAddress := by
  unfold Obligations.RtsReturnsPastThePulledAddress
  intro s
  dsimp only
  rw [BitVec.ofNat_add, ← word16_eq_ofNat]
  obtain ⟨done, first, second⟩ := pullWord_cases (s.advance 1)
  refine ⟨rfl, fun h1 h2 => ?_, fun h1 => ?_, fun h1 h2 => ?_⟩
  · exact exec_plain_next .rts rfl (returnFromSub_of_pullWord (done h1 h2))
  · exact exec_plain_fault .rts (returnFromSub_of_pullWord_error (first h1))
  · exact exec_plain_fault .rts (returnFromSub_of_pullWord_error (second h1 h2))

/-- Settles O47: both are one push, of A and of P with B and R set. -/
theorem phaAndPhpPushOneByte : Obligations.PhaAndPhpPushOneByte := by
  unfold Obligations.PhaAndPhpPushOneByte
  intro s
  refine ⟨rfl, rfl, fun h => ⟨?_, ?_, stores_write _ _ _, stores_write _ _ _⟩, fun h => ⟨?_, ?_⟩⟩
  · exact exec_plain_next .pha rfl (push_ok (s := s.advance 1) h)
  · exact exec_plain_next .php rfl (push_ok (s := s.advance 1) h)
  · exact exec_plain_fault .pha (push_out (s := s.advance 1) h)
  · exact exec_plain_fault .php (push_out (s := s.advance 1) h)

/-- Settles O48: both are one pull, into A with its N and Z and into P. -/
theorem plaAndPlpPullOneByte : Obligations.PlaAndPlpPullOneByte := by
  unfold Obligations.PlaAndPlpPullOneByte
  intro s
  refine ⟨rfl, rfl, fun h => ⟨⟨_, ?_, nz_setNZ _ s.p, onlyFlags_setNZ _ s.p⟩, ?_⟩, fun h => ⟨?_, ?_⟩⟩
  · exact exec_plain_next .pla rfl (pullA_of_pull (pull_ok (s := s.advance 1) h))
  · exact exec_plain_next .plp rfl (pullP_of_pull (pull_ok (s := s.advance 1) h))
  · exact exec_plain_fault .pla (pullA_of_pull_error (pull_out (s := s.advance 1) h))
  · exact exec_plain_fault .plp (pullP_of_pull_error (pull_out (s := s.advance 1) h))

/-- Settles O49: BRK is an interrupt entry through the IRQ vector, with PC past its one byte. -/
theorem brkEntersItsHandler : Obligations.BrkEntersItsHandler := by
  unfold Obligations.BrkEntersItsHandler
  intro s
  dsimp only
  rw [← hiByte_eq_ofNat, ← loByte_eq_ofNat]
  obtain ⟨-, first, second, third⟩ := enterInterrupt_cases (pushedByBreak s.p) irqVector (s.advance 1)
  refine ⟨rfl, stores_entryImage (pushedByBreak s.p) (s.advance 1), fun h1 h2 h3 => ?_, fun h1 => ?_, fun h1 h2 => ?_,
    fun h1 h2 h3 => ?_⟩
  · refine ⟨setFlag .i true s.p, flag_setFlag_same .i true s.p, onlyFlags_setFlag .i true s.p, fun hhi => ?_,
      fun hlo => ?_, fun hlo hhi => ?_⟩
    · have hlo : Backed s irqVector := lt_trans (by decide) hhi
      exact exec_plain_next .brk rfl (enterInterrupt_ok (s := s.advance 1) h1 h2 h3 _ hlo hhi)
    · exact exec_plain_fault .brk (enterInterrupt_low_out (s := s.advance 1) h1 h2 h3 _ hlo)
    · exact exec_plain_fault .brk (enterInterrupt_high_out (s := s.advance 1) h1 h2 h3 _ hlo hhi)
  · exact exec_plain_fault .brk (first h1)
  · exact exec_plain_fault .brk (second h1 h2)
  · exact exec_plain_fault .brk (third h1 h2 h3)

/-- Settles O50: RTI is a return from interrupt, P pulled first. -/
theorem rtiRestoresPThenPc : Obligations.RtiRestoresPThenPc := by
  unfold Obligations.RtiRestoresPThenPc
  intro s
  dsimp only
  rw [← word16_eq_ofNat]
  obtain ⟨done, first, second, third⟩ := returnFromInterrupt_cases (s.advance 1)
  refine ⟨rfl, fun h1 h2 h3 => ?_, fun h1 => ?_, fun h1 h2 => ?_, fun h1 h2 h3 => ?_⟩
  · exact exec_plain_next .rti rfl (done h1 h2 h3)
  · exact exec_plain_fault .rti (first h1)
  · exact exec_plain_fault .rti (second h1 h2)
  · exact exec_plain_fault .rti (third h1 h2 h3)

/-- Settles O54: the word that JSR pushes is the one that RTS pulls. -/
theorem jsrThenRtsReturns : Obligations.JsrThenRtsReturns := by
  unfold Obligations.JsrThenRtsReturns
  intro w s t u hm h hmem hsp hsize
  obtain ⟨r, n, hr, rfl⟩ := effect_of_exec_plain (.jsr w) h
  have hback := returnFromSub_of_callSub (s := s.advance 3) hm hr (u := u.advance 1) ⟨hmem, hsp, hsize⟩
  exact ⟨_, exec_plain_next .rts rfl hback, rfl, rfl⟩

/-- Settles O55: what BRK's entry pushes is what RTI pulls. -/
theorem brkThenRtiReturns : Obligations.BrkThenRtiReturns := by
  unfold Obligations.BrkThenRtiReturns
  intro s t u hm h hmem hsp hsize
  obtain ⟨r, n, hr, rfl⟩ := effect_of_exec_plain .brk h
  have hback := returnFromInterrupt_of_enterInterrupt (s := s.advance 1) hm hr (u := u.advance 1) ⟨hmem, hsp, hsize⟩
  exact ⟨_, exec_plain_next .rti rfl hback, rfl, rfl, rfl⟩

/-- Settles O56: the byte that PHP pushes, P with B and R set, is the one that PLP pulls. -/
theorem phpThenPlpRestoresP : Obligations.PhpThenPlpRestoresP := by
  unfold Obligations.PhpThenPlpRestoresP
  intro s t u hm h hmem hsp hsize
  obtain ⟨r, n, hr, rfl⟩ := effect_of_exec_plain .php h
  have hpull := pull_of_push (s := s.advance 1) hm hr (u := u.advance 1) ⟨hmem, hsp, hsize⟩
  refine ⟨_, exec_plain_next .plp rfl (pullP_of_pull hpull), rfl, flag_pushedByBreak .b s.p, flag_pushedByBreak .r s.p,
    fun f hf => ?_⟩
  have hbr : ¬(f = .b ∨ f = .r) := by simpa using hf
  exact (flag_pushedByBreak f s.p).trans (by rw [decide_eq_false hbr, Bool.false_or])

end Sys2Proof.Proofs

/-! The statements about the interrupt acknowledge (60_exceptions.md R338 to R343). -/
namespace Sys2Proof.Proofs

open Sys2Proof.Machine Sys2Proof.Claims Sys2Proof.Laws

/-- Settles O57: an acknowledge that is not masked is an interrupt entry through its own vector. -/
theorem acknowledgeEntersTheVector : Obligations.AcknowledgeEntersTheVector := by
  unfold Obligations.AcknowledgeEntersTheVector
  intro k s hrun
  dsimp only
  rw [← hiByte_eq_ofNat, ← loByte_eq_ofNat]
  refine ⟨fun hk hi => hk ▸ acknowledge_masked hrun hi, fun hopen h1 h2 h3 hv => ?_,
    stores_entryImage (pushedByInterrupt s.p) s⟩
  refine ⟨setFlag .i true s.p, flag_setFlag_same .i true s.p, onlyFlags_setFlag .i true s.p, ?_⟩
  have hlo : Backed s k.vector := by cases k <;> exact Nat.lt_of_succ_lt hv
  have hhi : Backed s (k.vector + 1#16) := by cases k <;> exact hv
  have htaken := takeInterrupt_of_ok (enterInterrupt_ok h1 h2 h3 (pushedByInterrupt s.p) hlo hhi)
  rw [acknowledge_unmasked hrun hopen]
  cases k <;> exact htaken

/-- Settles O58: the faults of an interrupt entry are the acknowledge's. -/
theorem acknowledgeOutsideTheImageFaults : Obligations.AcknowledgeOutsideTheImageFaults := by
  unfold Obligations.AcknowledgeOutsideTheImageFaults
  intro k s hrun hopen
  dsimp only
  rw [← hiByte_eq_ofNat, ← loByte_eq_ofNat, acknowledge_unmasked hrun hopen]
  obtain ⟨-, first, second, third⟩ := enterInterrupt_cases (pushedByInterrupt s.p) k.vector s
  refine ⟨fun h1 => ?_, fun h1 h2 => ?_, fun h1 h2 h3 => ?_, fun h1 h2 h3 => ?_⟩
  · exact takeInterrupt_of_error (first h1)
  · exact takeInterrupt_of_error (second h1 h2)
  · exact takeInterrupt_of_error (third h1 h2 h3)
  · refine ⟨setFlag .i true s.p, flag_setFlag_same .i true s.p, onlyFlags_setFlag .i true s.p, fun hlo => ?_,
      fun hlo hhi => ?_⟩
    · cases k <;> exact takeInterrupt_of_error (enterInterrupt_low_out h1 h2 h3 _ hlo)
    · cases k <;> exact takeInterrupt_of_error (enterInterrupt_high_out h1 h2 h3 _ hlo hhi)

/-- Settles O59: what the acknowledge's entry pushes is what RTI pulls. -/
theorem acknowledgeThenRtiReturns : Obligations.AcknowledgeThenRtiReturns := by
  unfold Obligations.AcknowledgeThenRtiReturns
  intro k s t u hm h hmem hsp hsize
  obtain ⟨r, hr, rfl⟩ := enterInterrupt_of_taken h
  have hback := returnFromInterrupt_of_enterInterrupt hm hr (u := u.advance 1) ⟨hmem, hsp, hsize⟩
  exact ⟨_, exec_plain_next .rti rfl hback, rfl, rfl, rfl⟩

end Sys2Proof.Proofs
